-- ==== Sys2Proof/Word.lean ====
section
/-! DEFINITION. The word and byte of the MEE (00_scope.md R6, R9: registers and command words are 64-bit patterns). -/

namespace Sys2Proof

/-- A 64-bit pattern: a data register, a command word, a bus word (R6, R9). -/
abbrev Word := BitVec 64

/-- One byte lane of a word (R60). -/
abbrev Byte := BitVec 8

end Sys2Proof
end

