-- ==== Sys2Proof/Config.lean ====
section
/-! DEFINITION. What an implementation or a platform fixes (the OPEN parameters of 00_scope.md R6 and
92_eei_decisions.md), and the free values. None has a body: no proof can know its value. -/

namespace Sys2Proof

/-- FREE (log 3). How many engine steps beyond the first an accepted word with these operand values takes. -/
opaque Config.extraEngineSteps : Word → List Word → Nat

/-- `LATENCY(w, ops)` (R6, R37, R241): finite and at least 1, otherwise open. -/
def Config.latency (w : Word) (ops : List Word) : Nat := Config.extraEngineSteps w ops + 1

/-- FREE (log 11). Which 128-byte block of the host's address space the platform gives the window (R59). -/
opaque Config.windowBlock : Nat

/-- `WINDOW_BASE` (R59): a multiple of 128. -/
def Config.windowBase : Nat := 128 * Config.windowBlock

/-- The two things `IRQ_LINE` gives (R210; 93_implementation_defined.md U13). Only the platform's interrupt controller
compares either with anything, so neither is a bit pattern here. -/
structure IrqLine where
  /-- the platform's interrupt number for the `irq` port -/
  number : Nat
  /-- the platform's priority for it -/
  priority : Nat
  deriving DecidableEq, Repr, Inhabited

/-- FREE (log 11). `IRQ_LINE` (R210): where the platform routes the `irq` port, and with which priority. -/
opaque Config.irqLine : IrqLine

/-- FREE (log 7). What `rsp_rdata` shows in the response to a served write: no rule states it. The argument is the
number of free values drawn before. -/
opaque Config.writeReadData : Nat → Word

end Sys2Proof
end

