-- ==== Sys2Proof/Syntax.lean ====
section
/-! DEFINITION. The MEE command set, version 1 (30_encoding.md R80 to R92): one constructor per row of
spec/opcode_table.json, operands in the assembler's order (destinations first, R92). -/

namespace Sys2Proof

/-- A data register R0 to R7 (R20, R25: field values 8 to 15 name none). -/
abbrev Reg := Fin 8

/-- The eight commands. The only operand form is a register named by a field (R87). -/
inductive Instr where
  /-- `ISPRIME rd, rs1` (R120) -/
  | isprime (rd rs1 : Reg)
  /-- `GCD rd, rs1, rs2` (R130) -/
  | gcd (rd rs1 rs2 : Reg)
  /-- `EGCD rd, rd2, rd3, rs1, rs2` (R133): rd gets g, rd2 gets x, rd3 gets y -/
  | egcd (rd rd2 rd3 rs1 rs2 : Reg)
  /-- `MODINV rd, rs1, rs2` (R137) -/
  | modinv (rd rs1 rs2 : Reg)
  /-- `MODPOW rd, rs1, rs2, rs3` (R150) -/
  | modpow (rd rs1 rs2 rs3 : Reg)
  /-- `MODPOWS rd, rs1, rs2, rs3` (R154) -/
  | modpows (rd rs1 rs2 rs3 : Reg)
  /-- `MODMUL rd, rs1, rs2, rs3` (R165) -/
  | modmul (rd rs1 rs2 rs3 : Reg)
  /-- `MODRED rd, rs1, rs2` (R168) -/
  | modred (rd rs1 rs2 : Reg)
  deriving DecidableEq, Repr

/-- The eight legal opcodes (R89). -/
inductive Opcode where
  | isprime
  | gcd
  | egcd
  | modinv
  | modpow
  | modpows
  | modmul
  | modred
  deriving DecidableEq, Repr

/-- The four command formats (R83 to R86). -/
inductive Format where
  /-- one source, one destination (R83) -/
  | r2
  /-- two sources, one destination (R84) -/
  | r3
  /-- three sources, one destination (R85) -/
  | r4
  /-- two sources, three destinations (R86) -/
  | e5
  deriving DecidableEq, Repr

/-- The five register fields of a command word (R81). -/
inductive Field where
  | f1
  | f2
  | f3
  | f4
  | f5
  deriving DecidableEq, Repr

/-- Why a word decodes to ILLEGAL: the five faults R202 lists. -/
inductive Illegal where
  /-- an opcode outside 0x01 to 0x08 -/
  | opcode
  /-- a nonzero bit in 63:28 -/
  | reservedBits
  /-- a nonzero field the format does not use -/
  | unusedField (f : Field)
  /-- a register field of 8 to 15 -/
  | registerField (f : Field)
  /-- an EGCD word with two equal destinations -/
  | equalDestinations
  deriving DecidableEq, Repr

end Sys2Proof
end

