-- ==== Sys2Proof/WellFormed.lean ====
section
/-! DEFINITION. Which commands the encoding can hold (30_encoding.md R86): the one condition that `Reg` does not already
carry is that EGCD's three destinations are different. -/

namespace Sys2Proof

/-- A command that some legal word stands for. -/
def Instr.wf : Instr → Bool
  | .isprime _ _ => true
  | .gcd _ _ _ => true
  | .egcd rd rd2 rd3 _ _ => rd != rd2 && rd != rd3 && rd2 != rd3
  | .modinv _ _ _ => true
  | .modpow _ _ _ _ => true
  | .modpows _ _ _ _ => true
  | .modmul _ _ _ _ => true
  | .modred _ _ _ => true

end Sys2Proof
end

