-- ==== Sys2Proof/Decode.lean ====
section
/-! DEFINITION. Decoding and encoding of command words (30_encoding.md R81 to R92), the opcode table's masks and matches
(R89), and the little-endian byte lanes of a word (20_memory.md R60). -/

namespace Sys2Proof

/-! ## Fields of a command word (R81) -/

/-- OP, bits 7:0. -/
def opField (w : Word) : BitVec 8 := w.extractLsb' 0 8

/-- Lowest bit of a register field. -/
def Field.lsb : Field → Nat
  | .f1 => 8
  | .f2 => 12
  | .f3 => 16
  | .f4 => 20
  | .f5 => 24

/-- A register field, four bits. -/
def regField (w : Word) (f : Field) : BitVec 4 := w.extractLsb' f.lsb 4

/-- RSV, bits 63:28. -/
def rsvField (w : Word) : BitVec 36 := w.extractLsb' 28 36

/-! ## Opcode map and formats (R83 to R86, R89) -/

/-- The opcode of a command. -/
def Instr.opcode : Instr → Opcode
  | .isprime _ _ => .isprime
  | .gcd _ _ _ => .gcd
  | .egcd _ _ _ _ _ => .egcd
  | .modinv _ _ _ => .modinv
  | .modpow _ _ _ _ => .modpow
  | .modpows _ _ _ _ => .modpows
  | .modmul _ _ _ _ => .modmul
  | .modred _ _ _ => .modred

/-- The opcode number of a command. -/
def Opcode.code : Opcode → BitVec 8
  | .isprime => 0x01#8
  | .gcd => 0x02#8
  | .egcd => 0x03#8
  | .modinv => 0x04#8
  | .modpow => 0x05#8
  | .modpows => 0x06#8
  | .modmul => 0x07#8
  | .modred => 0x08#8

/-- All legal opcodes, in the order of R89. -/
def Opcode.all : List Opcode := [.isprime, .gcd, .egcd, .modinv, .modpow, .modpows, .modmul, .modred]

/-- The opcode with a given number; every other number is reserved. -/
def opcodeOf (v : BitVec 8) : Option Opcode := Opcode.all.find? fun o => o.code == v

/-- The format of each opcode (R89). -/
def Opcode.format : Opcode → Format
  | .isprime => .r2
  | .gcd => .r3
  | .egcd => .e5
  | .modinv => .r3
  | .modpow => .r4
  | .modpows => .r4
  | .modmul => .r4
  | .modred => .r3

/-- Whether a format uses a register field (R83 to R86). -/
def Format.uses : Format → Field → Bool
  | .r2, f => f == .f1 || f == .f2
  | .r3, f => f == .f1 || f == .f2 || f == .f3
  | .r4, f => f == .f1 || f == .f2 || f == .f3 || f == .f4
  | .e5, _ => true

/-- The five fields in the order R88 examines them. -/
def Field.all : List Field := [.f1, .f2, .f3, .f4, .f5]

/-- What is wrong with one register field of a word of this format (R82, R88). -/
def fieldFault (fmt : Format) (w : Word) (f : Field) : Option Illegal :=
  if fmt.uses f then
    if (regField w f).getLsbD 3 then some (.registerField f) else none
  else
    if regField w f ≠ 0#4 then some (.unusedField f) else none

/-- The register a field names; used only where bit 3 of the field is 0 (R82). -/
def regOf (v : BitVec 4) : Reg := ⟨v.toNat % 8, Nat.mod_lt _ (by decide)⟩

/-- The register named by field `f` of `w`. -/
def regAt (w : Word) (f : Field) : Reg := regOf (regField w f)

/-- The command a word with checked fields stands for (R83 to R86, operand order of R92). -/
def instrAt (w : Word) : Opcode → Instr
  | .isprime => .isprime (regAt w .f1) (regAt w .f2)
  | .gcd => .gcd (regAt w .f1) (regAt w .f2) (regAt w .f3)
  | .egcd => .egcd (regAt w .f1) (regAt w .f4) (regAt w .f5) (regAt w .f2) (regAt w .f3)
  | .modinv => .modinv (regAt w .f1) (regAt w .f2) (regAt w .f3)
  | .modpow => .modpow (regAt w .f1) (regAt w .f2) (regAt w .f3) (regAt w .f4)
  | .modpows => .modpows (regAt w .f1) (regAt w .f2) (regAt w .f3) (regAt w .f4)
  | .modmul => .modmul (regAt w .f1) (regAt w .f2) (regAt w .f3) (regAt w .f4)
  | .modred => .modred (regAt w .f1) (regAt w .f2) (regAt w .f3)

/-- EGCD's three destination fields are pairwise different (R86). -/
def distinctDests (w : Word) : Bool :=
  regField w .f1 != regField w .f4 && regField w .f1 != regField w .f5 && regField w .f4 != regField w .f5

/-- `decode(w)` (R88): total, its checks in the rule's order, every ILLEGAL word rejected by the name of its fault. -/
def decode (w : Word) : Except Illegal Instr :=
  match opcodeOf (opField w) with
  | none => .error .opcode
  | some op =>
    if rsvField w ≠ 0#36 then .error .reservedBits
    else
      match Field.all.findSome? (fieldFault op.format w) with
      | some e => .error e
      | none =>
        if op.format = .e5 ∧ distinctDests w = false then .error .equalDestinations
        else .ok (instrAt w op)

/-! ## The opcode table's masks and matches (R89) -/

/-- The mask column of R89. -/
def Opcode.mask : Opcode → Word
  | .isprime => 0xFFFFFFFFFFFF88FF#64
  | .gcd => 0xFFFFFFFFFFF888FF#64
  | .egcd => 0xFFFFFFFFF88888FF#64
  | .modinv => 0xFFFFFFFFFFF888FF#64
  | .modpow => 0xFFFFFFFFFF8888FF#64
  | .modpows => 0xFFFFFFFFFF8888FF#64
  | .modmul => 0xFFFFFFFFFF8888FF#64
  | .modred => 0xFFFFFFFFFFF888FF#64

/-- The match column of R89. -/
def Opcode.matchWord : Opcode → Word
  | .isprime => 0x0000000000000001#64
  | .gcd => 0x0000000000000002#64
  | .egcd => 0x0000000000000003#64
  | .modinv => 0x0000000000000004#64
  | .modpow => 0x0000000000000005#64
  | .modpows => 0x0000000000000006#64
  | .modmul => 0x0000000000000007#64
  | .modred => 0x0000000000000008#64

/-- A word matches a row of the table (R88). -/
def Opcode.rowMatches (o : Opcode) (w : Word) : Bool := w &&& o.mask == o.matchWord

/-! ## Encoding (R92) -/

/-- A register number as a field value. -/
def fieldVal (r : Reg) : Word := BitVec.ofNat 64 r.val

/-- The assembled word of R92: `(F5 << 24) | (F4 << 20) | (F3 << 16) | (F2 << 12) | (F1 << 8) | OP`. -/
def assembleWord (op : Opcode) (f1 f2 f3 f4 f5 : Word) : Word :=
  (f5 <<< 24) ||| (f4 <<< 20) ||| (f3 <<< 16) ||| (f2 <<< 12) ||| (f1 <<< 8) ||| op.code.setWidth 64

/-- The word of a command, its fields placed as R92's table says and every unused field 0. -/
def encode : Instr → Word
  | .isprime rd rs1 => assembleWord .isprime (fieldVal rd) (fieldVal rs1) 0 0 0
  | .gcd rd rs1 rs2 => assembleWord .gcd (fieldVal rd) (fieldVal rs1) (fieldVal rs2) 0 0
  | .egcd rd rd2 rd3 rs1 rs2 =>
    assembleWord .egcd (fieldVal rd) (fieldVal rs1) (fieldVal rs2) (fieldVal rd2) (fieldVal rd3)
  | .modinv rd rs1 rs2 => assembleWord .modinv (fieldVal rd) (fieldVal rs1) (fieldVal rs2) 0 0
  | .modpow rd rs1 rs2 rs3 =>
    assembleWord .modpow (fieldVal rd) (fieldVal rs1) (fieldVal rs2) (fieldVal rs3) 0
  | .modpows rd rs1 rs2 rs3 =>
    assembleWord .modpows (fieldVal rd) (fieldVal rs1) (fieldVal rs2) (fieldVal rs3) 0
  | .modmul rd rs1 rs2 rs3 =>
    assembleWord .modmul (fieldVal rd) (fieldVal rs1) (fieldVal rs2) (fieldVal rs3) 0
  | .modred rd rs1 rs2 => assembleWord .modred (fieldVal rd) (fieldVal rs1) (fieldVal rs2) 0 0

/-! ## Byte lanes (R60) -/

/-- Byte lane k of a word: bits 8k+7 down to 8k. -/
def laneByte (w : Word) (k : Nat) : Byte := w.extractLsb' (8 * k) 8

/-- The eight lanes of a word, the lowest address first. -/
def lanesOf (w : Word) : List Byte := (List.range 8).map (laneByte w)

/-- The word held by byte lanes, the lowest address first (little-endian). -/
def wordOfLanes : List Byte → Word
  | [] => 0
  | b :: rest => b.setWidth 64 ||| (wordOfLanes rest <<< 8)

/-- Decoding from the eight byte lanes of one bus write. A command is delivered whole by one legal 8-byte write (R80), so
any other number of bytes holds no command. -/
def decodeLanes (bs : List Byte) : Option Instr :=
  if bs.length = 8 then (decode (wordOfLanes bs)).toOption else none

/-- The command the decoder reads from a table row's word: the low `nbits` bits of `w`, every bit above them 0, laid out in
byte lanes as the window stores them. -/
def decodeTableWord (nbits w : Nat) : Option Instr :=
  decodeLanes (lanesOf (BitVec.ofNat 64 (w % 2 ^ nbits)))

end Sys2Proof
end

