-- ==== Sys2Proof/Machine/State.lean ====
section
/-! DEFINITION. The state of the MEE and its inputs, as plain data (10_state.md R20 to R41, 20_memory.md R51), the reasons a
step can stop, and the state after reset. -/

namespace Sys2Proof.Machine

/-- The error codes STATUS.ERRCODE can hold (R201). Codes 5 to 15 are never produced, so they have no constructor. -/
inductive ErrCode where
  /-- 0 NONE -/
  | noError
  /-- 1 ILLEGAL_CMD (R202) -/
  | illegalCmd
  /-- 2 DOMAIN (R203) -/
  | domain
  /-- 3 INVERSE_NOT_FOUND (R204) -/
  | inverseNotFound
  /-- 4 SYMBOL_OVERFLOW (R205) -/
  | symbolOverflow
  deriving DecidableEq, Repr

/-- The fields of STATUS (R28). Its reserved bits hold nothing: they read 0 and ignore writes (R36). -/
structure Status where
  /-- bit 0 (R29) -/
  busy : Bool
  /-- bit 1 (R30) -/
  done : Bool
  /-- bit 2 (R31) -/
  err : Bool
  /-- bit 3 (R32) -/
  zero : Bool
  /-- bit 4 (R32) -/
  one : Bool
  /-- bits 11:8 (R31) -/
  errCode : ErrCode
  /-- bit 16 (R34) -/
  overrun : Bool
  deriving DecidableEq, Repr

/-- The pending-command record (R37). -/
structure Pending where
  /-- the accepted command word -/
  word : Word
  /-- the source values read at acceptance, in field order F2, F3, F4; empty for an ILLEGAL word (R101) -/
  ops : List Word
  /-- the engine steps still to run -/
  left : Nat
  deriving DecidableEq, Repr

/-- A host transaction at the bus ports (R51). -/
structure HostTxn where
  /-- `req_we`: true for a write -/
  we : Bool
  /-- `req_addr`: byte offset in the window -/
  addr : BitVec 7
  /-- `req_be`: byte enables -/
  be : BitVec 8
  /-- `req_wdata` -/
  wdata : Word
  deriving DecidableEq, Repr

/-- A response at the bus ports (R51). -/
structure Response where
  /-- `rsp_rdata` -/
  rdata : Word
  /-- `rsp_err` -/
  err : Bool
  deriving DecidableEq, Repr

/-- What can happen next (log 4): the interleaving of R63, with the edges of `rst` (R230). -/
inductive Event where
  /-- one transaction of the host -/
  | host (t : HostTxn)
  /-- a transaction of a second host (R223) -/
  | secondHost (t : HostTxn)
  /-- one engine step (R102) -/
  | engine
  /-- the engine steps of the pending command, all of them in a row (log 6) -/
  | engineRun
  /-- `rst` goes to 1 -/
  | rstRise
  /-- `rst` goes to 0 -/
  | rstFall
  deriving DecidableEq, Repr

/-- The model faults the spec has recorded in "the model's fault state" (R23). -/
inductive ModelFault where
  /-- UNWRITTEN_READ(i): register i was read, by the host or at acceptance, with `written[i] = 0` -/
  | unwrittenRead (i : Reg)
  deriving DecidableEq, Repr

/-- What a command computes (R103). -/
inductive CmdResult where
  /-- `Ok(writes, primary)` -/
  | ok (writes : List (Reg × Word)) (primary : Int)
  /-- `Err(code)` -/
  | err (code : ErrCode)
  deriving DecidableEq, Repr

/-- Why the machine stops. No fault of the spec stops it (R200): this one is the model's. -/
inductive Fault where
  /-- Raised by a command's meaning when State holds no pending record with that command's number of operands. R102 has no
  engine step there, and `step` never comes here from a state that satisfies `Inv` (log 12). Safe. -/
  | noPendingOperands
  deriving DecidableEq, Repr

/-- What the model gives no meaning to. -/
inductive Refusal where
  /-- An instruction without a meaning yet, by its mnemonic. Raised by `exec` alone. Safe. -/
  | notModelled (mnemonic : String)
  /-- A transaction of a second host, which the spec has the model refuse (R223, D1, U10; log 10). Raised by `step`. Safe. -/
  | secondHost
  deriving DecidableEq, Repr

/-- The MEE, its input and output ports, and the model's own records. -/
structure State where
  /-- R0 to R7 (R20) -/
  regs : Vector Word 8
  /-- `written[i]`, the model-only poison bits (R23) -/
  written : Vector Bool 8
  /-- LASTCMD, what a read of CMD returns (R27) -/
  lastCmd : Word
  /-- STATUS (R28) -/
  status : Status
  /-- CTRL.IRQ_EN (R35) -/
  irqEn : Bool
  /-- the pending command, if any (R37) -/
  pending : Option Pending
  /-- the level of the `rst` input (R230) -/
  rst : Bool
  /-- the response ports: `some` when `rsp_valid` is 1 (R51; log 7) -/
  rsp : Option Response
  /-- what happens next, first event first (log 4) -/
  inputs : List Event
  /-- the model's fault state, oldest first (R23, R209; log 2) -/
  modelFaults : List ModelFault
  /-- the model's own counter of free values drawn (log 7) -/
  freeCount : Nat
  deriving DecidableEq, Repr

/-- STATUS after reset: every field 0 (R41). -/
def Status.reset : Status where
  busy := false
  done := false
  err := false
  zero := false
  one := false
  errCode := .noError
  overrun := false

/-- The MEE right after reset (R41), `rst` back at 0, nothing presented at its ports. The data registers, which the spec
leaves unspecified, hold 0 (log 1). -/
def State.reset : State where
  regs := Vector.replicate 8 0
  written := Vector.replicate 8 false
  lastCmd := 0
  status := Status.reset
  irqEn := false
  pending := none
  rst := false
  rsp := none
  inputs := []
  modelFaults := []
  freeCount := 0

end Sys2Proof.Machine
end

