-- ==== Sys2Proof/Machine/Flags.lean ====
section
/-! DEFINITION. STATUS and CTRL: the places of their fields (10_state.md R28, R35), and every way their fields change: acceptance
(R101), successful and error completion (R105, R106), dropped writes (R34, R56), and host writes (R57). -/

namespace Sys2Proof.Machine

/-- A one-bit field at bit n, the other bits 0. -/
def flagBit (b : Bool) (n : Nat) : Word := if b then 1#64 <<< n else 0#64

/-- The number of an error code (R201). -/
def ErrCode.code : ErrCode → BitVec 4
  | .noError => 0#4
  | .illegalCmd => 1#4
  | .domain => 2#4
  | .inverseNotFound => 3#4
  | .symbolOverflow => 4#4

/-- STATUS as the host reads it (R28): the fields at their bits, reserved bits 0 (R36). -/
def Status.word (st : Status) : Word :=
  flagBit st.busy 0 ||| flagBit st.done 1 ||| flagBit st.err 2 ||| flagBit st.zero 3 ||| flagBit st.one 4 |||
    (st.errCode.code.setWidth 64 <<< 8) ||| flagBit st.overrun 16

/-- CTRL as the host reads it (R35). -/
def ctrlWord (irqEn : Bool) : Word := flagBit irqEn 0

/-- STATUS.ZERO of a primary result (R32). -/
def zeroFlag (z : Int) : Bool := decide (z = 0)

/-- STATUS.ONE of a primary result (R32). -/
def oneFlag (z : Int) : Bool := decide (z = 1)

/-- STATUS at acceptance (R101): BUSY set, OVERRUN kept, the rest cleared. -/
def Status.accepted (st : Status) : Status :=
  { st with busy := true, done := false, err := false, errCode := .noError, zero := false, one := false }

/-- STATUS at a successful completion with primary result z (R105). -/
def Status.succeeded (st : Status) (z : Int) : Status :=
  { st with
    busy := false, done := true, err := false, errCode := .noError, zero := zeroFlag z, one := oneFlag z }

/-- STATUS at an error completion (R106). -/
def Status.failed (st : Status) (code : ErrCode) : Status :=
  { st with busy := false, done := true, err := true, errCode := code, zero := false, one := false }

/-- STATUS when a write is dropped (R34, R56). -/
def Status.overran (st : Status) : Status := { st with overrun := true }

/-- A host write of v to STATUS (R57): bit 1 clears DONE, bit 16 clears OVERRUN, every other bit is ignored. -/
def Status.hostWrite (st : Status) (v : Word) : Status :=
  { st with done := st.done && !v.getLsbD 1, overrun := st.overrun && !v.getLsbD 16 }

/-- The `irq` output (R38): DONE AND IRQ_EN, at all times. -/
def State.irq (s : State) : Bool := s.status.done && s.irqEn

/-- What the platform's interrupt controller has from the MEE (R210, routing): while `irq` is 1, a request under the platform's
number and priority; while it is 0, nothing. -/
def State.irqRequest (s : State) : Option IrqLine := if s.irq then some Config.irqLine else none

/-- The platform's interrupt line n as the MEE drives it (R210): `irq` on the line the platform routes it to. -/
def State.irqLineLevel (s : State) (n : Nat) : Bool := s.irqRequest.any fun l => l.number == n

end Sys2Proof.Machine
end

