-- ==== Sys2Proof/Machine/Operands.lean ====
section
/-! DEFINITION. Operands: how a pattern is read as an integer and written back (00_scope.md R9), and which registers a command
reads and writes (30_encoding.md R83 to R86, R92; 40_command_execution.md R101, R107). -/

namespace Sys2Proof.Machine

/-- `sint(v)` (R9): the pattern as a two's complement integer. -/
def sint (v : Word) : Int := (v.toNat : Int) - 2 ^ 64 * (if v.getLsbD 63 then 1 else 0)

/-- `enc(z)` (R9): the two's complement pattern of z. -/
def enc (z : Int) : Word := BitVec.ofInt 64 z

/-- `sext_N(v)` (R9); no command uses it. -/
def sext {n : Nat} (v : BitVec n) : Word := v.signExtend 64

/-- `zext_N(v)` (R9). -/
def zext {n : Nat} (v : BitVec n) : Word := v.setWidth 64

/-- `x[i]` (R11): a read of a data register. No register is hardwired or has an alias (R21). -/
def State.reg (s : State) (i : Reg) : Word := s.regs.get i

/-- `written[i]` (R23). -/
def State.isWritten (s : State) (i : Reg) : Bool := s.written.get i

/-- The source registers of a command, in field order F2, F3, F4 (R101). -/
def sources : Instr → List Reg
  | .isprime _ rs1 => [rs1]
  | .gcd _ rs1 rs2 => [rs1, rs2]
  | .egcd _ _ _ rs1 rs2 => [rs1, rs2]
  | .modinv _ rs1 rs2 => [rs1, rs2]
  | .modpow _ rs1 rs2 rs3 => [rs1, rs2, rs3]
  | .modpows _ rs1 rs2 rs3 => [rs1, rs2, rs3]
  | .modmul _ rs1 rs2 rs3 => [rs1, rs2, rs3]
  | .modred _ rs1 rs2 => [rs1, rs2]

/-- The destination registers of a command, RD first (R92). -/
def dests : Instr → List Reg
  | .isprime rd _ => [rd]
  | .gcd rd _ _ => [rd]
  | .egcd rd rd2 rd3 _ _ => [rd, rd2, rd3]
  | .modinv rd _ _ => [rd]
  | .modpow rd _ _ _ => [rd]
  | .modpows rd _ _ _ => [rd]
  | .modmul rd _ _ _ => [rd]
  | .modred rd _ _ => [rd]

/-- The sources of a word: those of the command it decodes to, none for an ILLEGAL word (R101). -/
def wordSources (w : Word) : List Reg :=
  match decode w with
  | .ok i => sources i
  | .error _ => []

end Sys2Proof.Machine
end

