-- ==== Sys2Proof/Machine/Ops.lean ====
section
/-! DEFINITION. The operations every command shares: writing registers, accepting a command (40_command_execution.md R101),
completing it with success (R105) or in error (R106: this is all an MEE error does, 60_exceptions.md R200, R207, R211), and
reset (70_reset_and_hazards.md R230, R231). -/

namespace Sys2Proof.Machine

/-- `mulmod(a, b, m)` (R12), from the exact product. -/
def mulmod (a b m : Nat) : Nat := a * b % m

/-- `x[k] <- v; written[k] <- 1` (R55, R105). -/
def State.writeReg (s : State) (k : Reg) (v : Word) : State :=
  { s with regs := s.regs.set k.val v k.isLt, written := s.written.set k.val true k.isLt }

/-- The register writes of a commit, in their order (R105; R108: the order cannot be observed). -/
def State.writeAll (s : State) (ws : List (Reg × Word)) : State :=
  ws.foldl (fun s kv => s.writeReg kv.1 kv.2) s

/-- Record UNWRITTEN_READ(i) for each register of the list with `written[i] = 0` (R23, R101; log 2, log 15). -/
def State.noteReads (s : State) (rs : List Reg) : State :=
  { s with modelFaults := s.modelFaults ++ (rs.filter fun r => !s.isWritten r).map ModelFault.unwrittenRead }

/-- The operand values a word captures at acceptance (R101). -/
def State.captured (s : State) (w : Word) : List Word := (wordSources w).map s.reg

/-- Acceptance of word w (R101), legal or not. -/
def State.accept (s : State) (w : Word) : State :=
  { s.noteReads (wordSources w) with
    lastCmd := w
    status := s.status.accepted
    pending := some { word := w, ops := s.captured w, left := Config.latency w (s.captured w) } }

/-- Successful completion (R105): every write and every STATUS field in one step. -/
def State.succeed (s : State) (ws : List (Reg × Word)) (z : Int) : State :=
  { s.writeAll ws with status := s.status.succeeded z, pending := none }

/-- Error completion (R106): the one way an error is taken. No data register is written. -/
def State.fail (s : State) (code : ErrCode) : State :=
  { s with status := s.status.failed code, pending := none }

/-- The completion step for a command's result (R102). -/
def State.complete (s : State) : CmdResult → State
  | .ok ws z => s.succeed ws z
  | .err code => s.fail code

/-- Reset (R230, R231, R41): the pending command is abandoned, LASTCMD, STATUS and CTRL are 0, every register is marked
unwritten. The registers keep their patterns (R24, R231); the model's fault record is kept (log 9). -/
def State.resetState (s : State) : State :=
  { s with
    written := Vector.replicate 8 false
    lastCmd := 0
    status := Status.reset
    irqEn := false
    pending := none
    rsp := none }

/-- The operands of the pending command, if there is one. -/
def State.pendingOps (s : State) : Option (List Word) := s.pending.map Pending.ops

/-- Complete a command of one operand on the value captured at acceptance (R103, R104). -/
def completeOn1 (f : Word → CmdResult) (s : State) : Host.Outcome State Fault Refusal :=
  match s.pendingOps with
  | some [a] => .next (s.complete (f a))
  | _ => .fault .noPendingOperands

/-- Complete a command of two operands. -/
def completeOn2 (f : Word → Word → CmdResult) (s : State) : Host.Outcome State Fault Refusal :=
  match s.pendingOps with
  | some [a, b] => .next (s.complete (f a b))
  | _ => .fault .noPendingOperands

/-- Complete a command of three operands. -/
def completeOn3 (f : Word → Word → Word → CmdResult) (s : State) : Host.Outcome State Fault Refusal :=
  match s.pendingOps with
  | some [a, b, c] => .next (s.complete (f a b c))
  | _ => .fault .noPendingOperands

end Sys2Proof.Machine
end

