-- ==== Sys2Proof/Machine/GcdInverse.lean ====
section
/-! DEFINITION. The extended-GCD solver (42_gcd_inverse.md R130 to R138): GCD, EGCD, MODINV. -/

namespace Sys2Proof.Machine

/-- The loop of R130. The first argument is fuel: b rounds are enough, since b falls at every round (log 16). -/
def euclid : Nat → Nat → Nat → Nat
  | 0, a, _ => a
  | fuel + 1, a, b => if b = 0 then a else euclid fuel b (a % b)

/-- gcd by the iterative Euclidean algorithm (R130). -/
def gcdOf (a b : Nat) : Nat := euclid b a b

/-- The recursion of R132, on fuel. -/
def egcdRec : Nat → Nat → Nat → Nat × Int × Int
  | 0, a, _ => (a, 1, 0)
  | fuel + 1, a, b =>
    if b = 0 then (a, 1, 0)
    else
      match egcdRec fuel b (a % b) with
      | (g, x1, y1) => (g, y1, x1 - ((a / b : Nat) : Int) * y1)

/-- `egcd(a, b)` (R132): (g, x, y). -/
def egcd (a b : Nat) : Nat × Int × Int := egcdRec b a b

/-- `exec GCD` (R103, R130) on the captured operands. -/
def gcdResult (rd : Reg) (a b : Word) : CmdResult :=
  if sint a < 0 then .err .domain
  else if sint b < 0 then .err .domain
  else
    let g : Int := gcdOf (sint a).toNat (sint b).toNat
    .ok [(rd, enc g)] g

/-- GCD completes (R130). -/
def execGcd (rd : Reg) (s : State) : Host.Outcome State Fault Refusal :=
  completeOn2 (gcdResult rd) s

/-- `exec EGCD` (R103, R133) on the captured operands: g to rd, x to rd2, y to rd3. -/
def egcdResult (rd rd2 rd3 : Reg) (a b : Word) : CmdResult :=
  if sint a < 0 then .err .domain
  else if sint b < 0 then .err .domain
  else
    match egcd (sint a).toNat (sint b).toNat with
    | (g, x, y) => .ok [(rd, enc g), (rd2, enc x), (rd3, enc y)] g

/-- EGCD completes (R133). -/
def execEgcd (rd rd2 rd3 : Reg) (s : State) : Host.Outcome State Fault Refusal :=
  completeOn2 (egcdResult rd rd2 rd3) s

/-- `exec MODINV` (R103, R137) on the captured operands. -/
def modinvResult (rd : Reg) (a m : Word) : CmdResult :=
  if sint a < 0 then .err .domain
  else if sint m ≤ 0 then .err .domain
  else
    match egcd (sint a).toNat (sint m).toNat with
    | (g, x, _) =>
      if g ≠ 1 then .err .inverseNotFound
      else
        let r : Int := x % sint m
        .ok [(rd, enc r)] r

/-- MODINV completes (R137). -/
def execModinv (rd : Reg) (s : State) : Host.Outcome State Fault Refusal :=
  completeOn2 (modinvResult rd) s

end Sys2Proof.Machine
end

