-- ==== Sys2Proof/Machine/Modexp.lean ====
section
/-! DEFINITION. The modular exponentiation engine (43_modexp.md R150, R154): MODPOW and MODPOWS. -/

namespace Sys2Proof.Machine

/-- The loop of R150: right-to-left square-and-multiply. The arguments are fuel (e rounds are enough, since e halves at every
round, log 16), the modulus, the exponent, the base and the result so far. -/
def powLoop : Nat → Nat → Nat → Nat → Nat → Nat
  | 0, _, _, _, result => result
  | fuel + 1, m, e, base, result =>
    if e = 0 then result
    else
      powLoop fuel m (e / 2) (mulmod base base m) (if e % 2 = 1 then mulmod result base m else result)

/-- The value R150 computes for b, e >= 0 and m > 0. -/
def modpowOf (b e m : Nat) : Nat := powLoop e m e (b % m) (1 % m)

/-- `exec MODPOW` (R103, R150) on the captured operands. -/
def modpowResult (rd : Reg) (b e m : Word) : CmdResult :=
  if sint b < 0 then .err .domain
  else if sint e < 0 then .err .domain
  else if sint m ≤ 0 then .err .domain
  else
    let r : Int := modpowOf (sint b).toNat (sint e).toNat (sint m).toNat
    .ok [(rd, enc r)] r

/-- MODPOW completes (R150). -/
def execModpow (rd : Reg) (s : State) : Host.Outcome State Fault Refusal :=
  completeOn3 (modpowResult rd) s

/-- `exec MODPOWS` (R103, R154) on the captured operands: the checks, then the outcome of MODPOW. -/
def modpowsResult (rd : Reg) (b e m : Word) : CmdResult :=
  if sint b < 0 then .err .domain
  else if sint e < 0 then .err .domain
  else if sint m ≤ 0 then .err .domain
  else if sint m ≤ sint b then .err .symbolOverflow
  else modpowResult rd b e m

/-- MODPOWS completes (R154). -/
def execModpows (rd : Reg) (s : State) : Host.Outcome State Fault Refusal :=
  completeOn3 (modpowsResult rd) s

end Sys2Proof.Machine
end

