-- ==== Sys2Proof/Machine/Modmul.lean ====
section
/-! DEFINITION. The modular multiplier and reducer (44_modmul.md R165, R168): MODMUL and MODRED. -/

namespace Sys2Proof.Machine

/-- `exec MODMUL` (R103, R165) on the captured operands. -/
def modmulResult (rd : Reg) (a b m : Word) : CmdResult :=
  if sint a < 0 then .err .domain
  else if sint b < 0 then .err .domain
  else if sint m ≤ 0 then .err .domain
  else
    let r : Int := mulmod (sint a).toNat (sint b).toNat (sint m).toNat
    .ok [(rd, enc r)] r

/-- MODMUL completes (R165). -/
def execModmul (rd : Reg) (s : State) : Host.Outcome State Fault Refusal :=
  completeOn3 (modmulResult rd) s

/-- `exec MODRED` (R103, R168) on the captured operands. -/
def modredResult (rd : Reg) (a m : Word) : CmdResult :=
  if sint a < 0 then .err .domain
  else if sint m ≤ 0 then .err .domain
  else
    let r : Int := sint a % sint m
    .ok [(rd, enc r)] r

/-- MODRED completes (R168). -/
def execModred (rd : Reg) (s : State) : Host.Outcome State Fault Refusal :=
  completeOn2 (modredResult rd) s

end Sys2Proof.Machine
end

