-- ==== Sys2Proof/Machine/Primality.lean ====
section
/-! DEFINITION. The trial-division primality tester (41_primality.md R120): ISPRIME. -/

namespace Sys2Proof.Machine

/-- The loop of R120 from divisor i: false when some i, i+2, i+4, … with i*i <= n divides n. The first argument is fuel: n
rounds are more than the loop takes (log 16). -/
def trialDivide : Nat → Nat → Nat → Bool
  | 0, _, _ => true
  | fuel + 1, n, i =>
    if i * i ≤ n then
      if n % i = 0 then false else trialDivide fuel n (i + 2)
    else true

/-- p of R120 for n >= 0. -/
def primeByTrial (n : Nat) : Bool :=
  if n < 2 then false
  else if n = 2 then true
  else if n % 2 = 0 then false
  else trialDivide n n 3

/-- `exec ISPRIME` (R103, R120) on the captured operand. Every value is in the domain; a negative n is below 2. -/
def isprimeResult (rd : Reg) (a : Word) : CmdResult :=
  let n := sint a
  let p : Int := if n < 2 then 0 else if primeByTrial n.toNat then 1 else 0
  .ok [(rd, enc p)] p

/-- ISPRIME completes (R120). -/
def execIsprime (rd : Reg) (s : State) : Host.Outcome State Fault Refusal :=
  completeOn1 (isprimeResult rd) s

end Sys2Proof.Machine
end

