-- ==== Sys2Proof/Machine/Dispatch.lean ====
section
/-! DEFINITION. `exec`: the completion of a decoded command on the operands captured at its acceptance (40_command_execution.md
R102 to R106). The source registers are not read again, so no arm passes them on (R104, R107). -/

namespace Sys2Proof.Machine

def exec (i : Instr) (s : State) : Host.Outcome State Fault Refusal :=
  match i with
  | .isprime rd _ => Sys2Proof.Machine.execIsprime rd s
  | .gcd rd _ _ => Sys2Proof.Machine.execGcd rd s
  | .egcd rd rd2 rd3 _ _ => Sys2Proof.Machine.execEgcd rd rd2 rd3 s
  | .modinv rd _ _ => Sys2Proof.Machine.execModinv rd s
  | .modpow rd _ _ _ => Sys2Proof.Machine.execModpow rd s
  | .modpows rd _ _ _ => Sys2Proof.Machine.execModpows rd s
  | .modmul rd _ _ _ => Sys2Proof.Machine.execModmul rd s
  | .modred rd _ _ => Sys2Proof.Machine.execModred rd s

end Sys2Proof.Machine
end

