-- ==== Sys2Proof/Machine/HostPort.lean ====
section
/-! DEFINITION. The register window as a bus slave (20_memory.md R50 to R62): the map, legal accesses, reads, writes, and one
whole host transaction. -/

namespace Sys2Proof.Machine

/-- What lies at a window offset (R52). -/
inductive Slot where
  | data (i : Reg)
  | cmd
  | status
  | ctrl
  | ident
  | reserved
  deriving DecidableEq, Repr

/-- The register map (R52): slot number `off div 8`. -/
def slotOf (addr : BitVec 7) : Slot :=
  if h : addr.toNat / 8 < 8 then .data ⟨addr.toNat / 8, h⟩
  else if addr.toNat / 8 = 8 then .cmd
  else if addr.toNat / 8 = 9 then .status
  else if addr.toNat / 8 = 10 then .ctrl
  else if addr.toNat / 8 = 11 then .ident
  else .reserved

/-- The constant of the ID register (R33). -/
def idWord : Word := 0x0000000100004D45#64

/-- A legal access (R53): all eight byte enables, an 8-byte-aligned offset. -/
def HostTxn.legal (t : HostTxn) : Bool := t.be == 0xFF#8 && t.addr.extractLsb' 0 3 == 0#3

/-- What a legal read returns (R54, R58). -/
def State.windowRead (s : State) (addr : BitVec 7) : Word :=
  match slotOf addr with
  | .data i => s.reg i
  | .cmd => s.lastCmd
  | .status => s.status.word
  | .ctrl => ctrlWord s.irqEn
  | .ident => idWord
  | .reserved => 0#64

/-- The byte at a window offset, as a host byte address would name it (R60): lane `off mod 8` of its register. -/
def State.windowByte (s : State) (off : BitVec 7) : Byte := laneByte (s.windowRead off) (off.toNat % 8)

/-- The data register a read touches, if any (R23). -/
def slotReads : Slot → List Reg
  | .data i => [i]
  | .cmd => []
  | .status => []
  | .ctrl => []
  | .ident => []
  | .reserved => []

/-- Present a response at the ports (R51). -/
def State.respond (s : State) (rdata : Word) (err : Bool) : State :=
  { s with rsp := some { rdata := rdata, err := err } }

/-- A refused transaction (R53, R230): error response, read data 0, no effect. -/
def State.refuseTxn (s : State) : State := s.respond 0#64 true

/-- A legal read (R54): no side effect on the MEE; the model records a read of an unwritten register (R23; log 2). -/
def State.serveRead (s : State) (addr : BitVec 7) : State :=
  (s.noteReads (slotReads (slotOf addr))).respond (s.windowRead addr) false

/-- A write that is dropped while BUSY (R56). -/
def State.dropWrite (s : State) : State := { s with status := s.status.overran }

/-- The effect of a legal write of v (R55 to R58). -/
def State.applyWrite (s : State) (addr : BitVec 7) (v : Word) : State :=
  match slotOf addr with
  | .data i => if s.status.busy then s.dropWrite else s.writeReg i v
  | .cmd => if s.status.busy then s.dropWrite else s.accept v
  | .status => { s with status := s.status.hostWrite v }
  | .ctrl => { s with irqEn := v.getLsbD 0 }
  | .ident => s
  | .reserved => s

/-- The response to a served write: `rsp_err = 0` (R55 to R58), read data free (log 7). -/
def State.respondToWrite (s : State) : State :=
  { s.respond (Config.writeReadData s.freeCount) false with freeCount := s.freeCount + 1 }

/-- One whole host transaction (R51, R53 to R58, R230). -/
def State.serve (s : State) (t : HostTxn) : State :=
  if s.rst || !t.legal then s.refuseTxn
  else if t.we then (s.applyWrite t.addr t.wdata).respondToWrite
  else s.serveRead t.addr

/-- The window offset the MEE decodes from a host byte address: its low 7 bits (R54, R59). -/
def offsetOf (hostAddr : Nat) : BitVec 7 := BitVec.ofNat 7 hostAddr

/-- The host address of a window offset (R59). -/
def hostAddress (off : BitVec 7) : Nat := Config.windowBase + off.toNat

/-- `MemRead(off, 8)` (R11) as a transaction. -/
def memRead (off : BitVec 7) : HostTxn := { we := false, addr := off, be := 0xFF#8, wdata := 0#64 }

/-- `MemWrite(off, 8, v)` (R11) as a transaction. -/
def memWrite (off : BitVec 7) (v : Word) : HostTxn := { we := true, addr := off, be := 0xFF#8, wdata := v }

end Sys2Proof.Machine
end

