-- ==== Sys2Proof/Machine/Engine.lean ====
section
/-! DEFINITION. The engine's steps (40_command_execution.md R102), what each input event does, and how an instruction is placed
for the next step. -/

namespace Sys2Proof.Machine

/-- The completion step of a pending word (R102): `exec` of the command it decodes to, or ILLEGAL_CMD (R103, R202). -/
def completeWord (w : Word) (s : State) : Host.Outcome State Fault Refusal :=
  match decode w with
  | .ok i => exec i s
  | .error _ => .next (s.complete (.err .illegalCmd))

/-- One engine step (R102). While IDLE there is none: nothing changes. -/
def engineStep (s : State) : Host.Outcome State Fault Refusal :=
  match s.pending with
  | none => .next s
  | some p =>
    if 1 < p.left then .next { s with pending := some { p with left := p.left - 1 } }
    else completeWord p.word s

/-- The engine steps of the pending command, all in a row, ending in its completion (log 6). -/
def engineRun (s : State) : Host.Outcome State Fault Refusal :=
  match s.pending with
  | none => .next s
  | some p => completeWord p.word s

/-- What an event does. While `rst` is 1 the MEE holds its reset state and no engine step happens (R230; log 8). -/
def runEvent (e : Event) (s : State) : Host.Outcome State Fault Refusal :=
  match e with
  | .host t => .next (s.serve t)
  | .secondHost _ => .refused .secondHost
  | .engine => if s.rst then .next s else engineStep s
  | .engineRun => if s.rst then .next s else engineRun s
  | .rstRise => .next { s.resetState with rst := true }
  | .rstFall => .next { s with rst := false }

/-- The event the next step takes: the first of the inputs, or an engine step where none waits (log 5). -/
def State.nextEvent (s : State) : Event :=
  match s.inputs with
  | [] => .engine
  | e :: _ => e

/-- The state with that event taken from the inputs, and the response of the step before no longer presented (log 7). -/
def State.takeEvent (s : State) : State := { s with inputs := s.inputs.tail, rsp := none }

/-- Place word w as the pending command one engine step before its completion, and let the engine move next: the state an
accepted write of w to CMD leads to, `rst` at 0 (log 13). -/
def State.placeCommand (s : State) (w : Word) : State :=
  { s.accept w with
    pending := some { word := w, ops := s.captured w, left := 1 }
    rst := false
    inputs := .engine :: s.inputs }

end Sys2Proof.Machine
end

