-- ==== Sys2Proof/Machine/Step.lean ====
section
/-! DEFINITION. The step function: one event of the interleaving of 20_memory.md R63. -/

namespace Sys2Proof.Machine

/-- One step: the next event and what it does. -/
def step (s : State) : Host.Outcome State Fault Refusal := runEvent s.nextEvent s.takeEvent

/-- `s` with the command of word `w` (its low `nbits` bits) in the pending-command record, captured from `s`'s registers, so
that the very next step completes it (log 13). -/
def State.withFetchWord (s : State) (nbits w : Nat) : State := s.placeCommand (BitVec.ofNat 64 (w % 2 ^ nbits))

end Sys2Proof.Machine
end

