-- ==== Sys2Proof/Machine/Assembler.lean ====
section
/-! DEFINITION. The assembler syntax and the pseudo-instructions (30_encoding.md R92, R93). -/

namespace Sys2Proof.Machine

/-- A mnemonic of R92 or a pseudo-instruction of R93. -/
inductive Mnemonic where
  | command (o : Opcode)
  | modsqr
  | enc
  | dec
  deriving DecidableEq, Repr

/-- The mnemonics in lower case with what each means. -/
def mnemonicTable : List (List Char × Mnemonic) :=
  [("isprime".toList, .command .isprime), ("gcd".toList, .command .gcd), ("egcd".toList, .command .egcd),
   ("modinv".toList, .command .modinv), ("modpow".toList, .command .modpow), ("modpows".toList, .command .modpows),
   ("modmul".toList, .command .modmul), ("modred".toList, .command .modred),
   ("modsqr".toList, .modsqr), ("enc".toList, .enc), ("dec".toList, .dec)]

/-- A mnemonic by its name, case-insensitive (R92). -/
def mnemonicOf (cs : List Char) : Option Mnemonic :=
  (mnemonicTable.find? fun p => p.1 == cs.map Char.toLower).map Prod.snd

/-- A register name `r0` to `r7`, case-insensitive (R92). -/
def regOfName (cs : List Char) : Option Reg :=
  match cs.map Char.toLower with
  | ['r', d] =>
    if h : 48 ≤ d.toNat ∧ d.toNat < 56 then some ⟨d.toNat - 48, by omega⟩ else none
  | _ => none

/-- The command of a mnemonic and its operands in syntax order, pseudo-instructions expanded (R92, R93); none for a wrong
number of operands. -/
def commandOf : Mnemonic → List Reg → Option Instr
  | .command .isprime, [rd, rs1] => some (.isprime rd rs1)
  | .command .gcd, [rd, rs1, rs2] => some (.gcd rd rs1 rs2)
  | .command .egcd, [rd, rd2, rd3, rs1, rs2] => some (.egcd rd rd2 rd3 rs1 rs2)
  | .command .modinv, [rd, rs1, rs2] => some (.modinv rd rs1 rs2)
  | .command .modpow, [rd, rs1, rs2, rs3] => some (.modpow rd rs1 rs2 rs3)
  | .command .modpows, [rd, rs1, rs2, rs3] => some (.modpows rd rs1 rs2 rs3)
  | .command .modmul, [rd, rs1, rs2, rs3] => some (.modmul rd rs1 rs2 rs3)
  | .command .modred, [rd, rs1, rs2] => some (.modred rd rs1 rs2)
  | .modsqr, [rd, rs, rm] => some (.modmul rd rs rs rm)
  | .enc, [rd, rsym, re, rn] => some (.modpows rd rsym re rn)
  | .dec, [rd, rc, rk, rn] => some (.modpow rd rc rk rn)
  | _, _ => none

/-- Blank characters between tokens (log 17). -/
def blankChar (c : Char) : Bool := c == ' ' || c == '\t'

/-- A token without the blanks around it. -/
def trimBlanks (cs : List Char) : List Char := ((cs.dropWhile blankChar).reverse.dropWhile blankChar).reverse

/-- Cut at every comma. -/
def splitCommas : List Char → List (List Char)
  | [] => [[]]
  | c :: cs =>
    if c = ',' then [] :: splitCommas cs
    else
      match splitCommas cs with
      | [] => [[c]]
      | t :: ts => (c :: t) :: ts

/-- One line of assembly (R92): the mnemonic, then the operands separated by commas; a comment starts with `;`. -/
def assembleLine (line : List Char) : Option Instr :=
  let body := trimBlanks (line.takeWhile fun c => c != ';')
  let name := body.takeWhile fun c => !blankChar c
  let operands := (splitCommas (body.dropWhile fun c => !blankChar c)).map trimBlanks
  match mnemonicOf name, operands.mapM regOfName with
  | some m, some rs => commandOf m rs
  | _, _ => none

end Sys2Proof.Machine
end

