-- ==== Sys2Proof/Machine/Work.lean ====
section
/-! DEFINITION. The work counts of 40_command_execution.md R112, 43_modexp.md R152 and 70_reset_and_hazards.md R242: each loop of a
command again, with a count of its rounds. They are information: no step reads them (R241). -/

namespace Sys2Proof.Machine

/-- `euclid` with the number of its rounds. -/
def euclidCounted : Nat → Nat → Nat → Nat × Nat
  | 0, a, _ => (a, 0)
  | fuel + 1, a, b =>
    if b = 0 then (a, 0)
    else
      match euclidCounted fuel b (a % b) with
      | (g, k) => (g, k + 1)

/-- Euclid steps of GCD, EGCD and MODINV on (a, b). -/
def euclidSteps (a b : Nat) : Nat := (euclidCounted b a b).2

/-- `trialDivide` with the number of its trial divisions. -/
def trialDivideCounted : Nat → Nat → Nat → Bool × Nat
  | 0, _, _ => (true, 0)
  | fuel + 1, n, i =>
    if i * i ≤ n then
      if n % i = 0 then (false, 1)
      else
        match trialDivideCounted fuel n (i + 2) with
        | (p, k) => (p, k + 1)
    else (true, 0)

/-- Trial divisions by odd numbers that ISPRIME does for n (R242). -/
def trialDivisions (n : Nat) : Nat :=
  if n < 2 then 0 else if n = 2 then 0 else if n % 2 = 0 then 0 else (trialDivideCounted n n 3).2

/-- What a counted square-and-multiply loop returns. -/
structure PowCount where
  result : Nat
  rounds : Nat
  mulmods : Nat
  deriving DecidableEq, Repr

/-- `powLoop` with the number of its rounds and of its `mulmod` calls. -/
def powLoopCounted : Nat → Nat → Nat → Nat → Nat → PowCount
  | 0, _, _, _, result => ⟨result, 0, 0⟩
  | fuel + 1, m, e, base, result =>
    if e = 0 then ⟨result, 0, 0⟩
    else
      let c := powLoopCounted fuel m (e / 2) (mulmod base base m) (if e % 2 = 1 then mulmod result base m else result)
      ⟨c.result, c.rounds + 1, c.mulmods + (if e % 2 = 1 then 2 else 1)⟩

/-- The counted run of MODPOW. -/
def modpowCounted (b e m : Nat) : PowCount := powLoopCounted e m e (b % m) (1 % m)

end Sys2Proof.Machine
end

