-- ==== Sys2Proof/Safety.lean ====
section
/-! DEFINITION. What holds of the MEE's state at all times (`State.Inv`), and what counts as a safe run. -/

namespace Sys2Proof.Machine

/-- The opcode of the command a word decodes to. -/
def wordOpcode (w : Word) : Option Opcode :=
  match decode w with
  | .ok i => some i.opcode
  | .error _ => none

/-- R201, column "raised by": whether an error code can come from a command word. -/
def ErrCode.raisedBy : ErrCode → Word → Bool
  | .noError, _ => true
  | .illegalCmd, w => (wordOpcode w).isNone
  | .domain, w => (wordOpcode w).any fun o => o != .isprime
  | .inverseNotFound, w => wordOpcode w == some .modinv
  | .symbolOverflow, w => wordOpcode w == some .modpows

/-- The invariant of the state: what the rules say holds at all times. -/
structure State.Inv (s : State) : Prop where
  /-- BUSY is 1 exactly while a command is pending (R29, R37, R100). -/
  busy_pending : s.status.busy = s.pending.isSome
  /-- While BUSY the fields of the last completion are clear (R30, R31, R32, R101). -/
  busy_clear : s.status.busy = true →
    s.status.done = false ∧ s.status.err = false ∧ s.status.errCode = .noError ∧
      s.status.zero = false ∧ s.status.one = false
  /-- ERR is 1 exactly when ERRCODE is not NONE (R31). -/
  err_code : s.status.err = (s.status.errCode != .noError)
  /-- ZERO and ONE exclude each other, and an error leaves both 0 (R32). -/
  flags : ¬(s.status.zero = true ∧ s.status.one = true) ∧
    (s.status.err = true → s.status.zero = false ∧ s.status.one = false)
  /-- The pending record belongs to LASTCMD, has a step left, and holds one value per source (R37, R101). -/
  pending_record : ∀ p, s.pending = some p →
    p.word = s.lastCmd ∧ 1 ≤ p.left ∧ p.ops.length = (wordSources p.word).length
  /-- ERRCODE is one that LASTCMD's command can raise (R201, R207). -/
  code_raised : s.status.errCode.raisedBy s.lastCmd = true
  /-- While `rst` is 1 the state is the reset state of R41 (R230). -/
  held : s.rst = true →
    s.written = Vector.replicate 8 false ∧ s.lastCmd = 0 ∧ s.status = Status.reset ∧ s.irqEn = false ∧
      s.pending = none

/-- No input of a state comes from a second host: the spec gives the MEE one host (R223). -/
def State.OneHost (s : State) : Prop := ∀ t, Event.secondHost t ∉ s.inputs

/-- k steps from s end in t with no stop and no model fault recorded on the way: a run whose claims rest on no unwritten
register. -/
def SafeRun (k : Nat) (s t : State) : Prop :=
  Sys2Proof.core.run k s = .next t ∧ t.modelFaults = s.modelFaults

end Sys2Proof.Machine
end

