-- ==== Sys2Proof/Certificates/Slice0/Obligations.lean ====
section
/-! DEFINITION. The statements for the provers, with the few predicates they share. -/

namespace Sys2Proof.Machine

/-! ## What the statements say about two states -/

/-- Everything a completion leaves alone (R110): LASTCMD, CTRL, STATUS.OVERRUN, and what is outside the MEE or the model's. -/
structure KeptByCompletion (s t : State) : Prop where
  lastCmd : t.lastCmd = s.lastCmd
  irqEn : t.irqEn = s.irqEn
  overrun : t.status.overrun = s.status.overrun
  rst : t.rst = s.rst
  rsp : t.rsp = s.rsp
  inputs : t.inputs = s.inputs
  modelFaults : t.modelFaults = s.modelFaults
  freeCount : t.freeCount = s.freeCount

/-- A successful completion (R105) that writes exactly `ws`, with primary result z. -/
structure Succeeded (s t : State) (ws : List (Reg × Word)) (z : Int) : Prop where
  values : ∀ k v, (k, v) ∈ ws → t.reg k = v ∧ t.isWritten k = true
  others : ∀ k, k ∉ ws.map Prod.fst → t.reg k = s.reg k ∧ t.isWritten k = s.isWritten k
  busy : t.status.busy = false
  done : t.status.done = true
  err : t.status.err = false
  errCode : t.status.errCode = .noError
  zero : t.status.zero = decide (z = 0)
  one : t.status.one = decide (z = 1)
  pending : t.pending = none
  kept : KeptByCompletion s t

/-- An error completion (R106) with a code: no data register changes. -/
structure EndedInError (s t : State) (code : ErrCode) : Prop where
  registers : ∀ k, t.reg k = s.reg k ∧ t.isWritten k = s.isWritten k
  busy : t.status.busy = false
  done : t.status.done = true
  err : t.status.err = true
  errCode : t.status.errCode = code
  zero : t.status.zero = false
  one : t.status.one = false
  pending : t.pending = none
  kept : KeptByCompletion s t

/-- No state of the MEE differs (the response ports, the inputs and the model's own records may). -/
structure SameMee (s t : State) : Prop where
  regs : t.regs = s.regs
  written : t.written = s.written
  lastCmd : t.lastCmd = s.lastCmd
  status : t.status = s.status
  irqEn : t.irqEn = s.irqEn
  pending : t.pending = s.pending
  rst : t.rst = s.rst

/-- The number of an error code in the table of R201. -/
def errNumber : ErrCode → BitVec 4
  | .noError => 0
  | .illegalCmd => 1
  | .domain => 2
  | .inverseNotFound => 3
  | .symbolOverflow => 4

/-- The word the host reads for STATUS (R28): every field at its bits, every reserved bit 0. -/
structure ShowsStatus (d : Word) (st : Status) : Prop where
  busy : d.getLsbD 0 = st.busy
  done : d.getLsbD 1 = st.done
  err : d.getLsbD 2 = st.err
  zero : d.getLsbD 3 = st.zero
  one : d.getLsbD 4 = st.one
  reserved5 : d.extractLsb' 5 3 = 0
  errCode : d.extractLsb' 8 4 = errNumber st.errCode
  reserved12 : d.extractLsb' 12 4 = 0
  overrun : d.getLsbD 16 = st.overrun
  reserved17 : d.extractLsb' 17 47 = 0

/-- A legal host write of v at offset off is the next event, outside reset. -/
structure WritesNext (s : State) (off : Nat) (v : Word) : Prop where
  event : ∃ x, s.nextEvent = .host x ∧ x.we = true ∧ x.be = 0xFF ∧ x.addr.toNat = off ∧ x.wdata = v
  aligned : off % 8 = 0
  running : s.rst = false

/-- A legal host read at offset off is the next event, outside reset. -/
structure ReadsNext (s : State) (off : Nat) : Prop where
  event : ∃ x, s.nextEvent = .host x ∧ x.we = false ∧ x.be = 0xFF ∧ x.addr.toNat = off
  aligned : off % 8 = 0
  running : s.rst = false

/-- The next event is an engine step, or a row of them, outside reset. -/
def EngineNext (s : State) : Prop := (s.nextEvent = .engine ∨ s.nextEvent = .engineRun) ∧ s.rst = false

/-- The response presented after a step. -/
def Responds (t : State) (d : Word) (e : Bool) : Prop := t.rsp = some { rdata := d, err := e }

/-- The response to a served write: no error; the read data is open (log 7). -/
def RespondsToWrite (t : State) : Prop := ∃ d, Responds t d false

/-- The operand values outside a command's domain, from the table of R203. -/
def OutsideDomain : Instr → List Word → Prop
  | .gcd _ _ _, [a, b] => sint a < 0 ∨ sint b < 0
  | .egcd _ _ _ _ _, [a, b] => sint a < 0 ∨ sint b < 0
  | .modinv _ _ _, [a, m] => sint a < 0 ∨ sint m ≤ 0
  | .modpow _ _ _ _, [b, e, m] => sint b < 0 ∨ sint e < 0 ∨ sint m ≤ 0
  | .modpows _ _ _ _, [b, e, m] => sint b < 0 ∨ sint e < 0 ∨ sint m ≤ 0
  | .modmul _ _ _ _, [a, b, m] => sint a < 0 ∨ sint b < 0 ∨ sint m ≤ 0
  | .modred _ _ _, [a, m] => sint a < 0 ∨ sint m ≤ 0
  | _, _ => False

/-- MODPOWS with base >= modulus (R205). -/
def SymbolTooLarge : Instr → List Word → Prop
  | .modpows _ _ _ _, [b, _, m] => sint m ≤ sint b
  | _, _ => False

/-- MODINV with gcd(a, m) != 1 (R204). -/
def HasNoInverse : Instr → List Word → Prop
  | .modinv _ _ _, [a, m] => Nat.gcd (sint a).toNat (sint m).toNat ≠ 1
  | _, _ => False

/-- The source fields of each format, in the order of R101. -/
def sourceFields : Format → List Field
  | .r2 => [.f2]
  | .r3 => [.f2, .f3]
  | .r4 => [.f2, .f3, .f4]
  | .e5 => [.f2, .f3]

/-- The faults R202 lists, said of the bits of a word. -/
def HasListedFault (w : Word) : Prop :=
  (w.toNat % 256 = 0 ∨ 8 < w.toNat % 256) ∨
    (∃ n, 28 ≤ n ∧ w.getLsbD n = true) ∨
    (∃ o f, Opcode.code o = opField w ∧ Format.uses o.format f = false ∧ regField w f ≠ 0) ∨
    (∃ o f, Opcode.code o = opField w ∧ Format.uses o.format f = true ∧ 8 ≤ (regField w f).toNat) ∨
    (w.toNat % 256 = 3 ∧
      (regField w .f1 = regField w .f4 ∨ regField w .f1 = regField w .f5 ∨ regField w .f4 = regField w .f5))

/-- The state with word w pending on given operands and one engine step left. -/
def State.pendingOn (s : State) (w : Word) (ops : List Word) : State :=
  { s with pending := some { word := w, ops := ops, left := 1 } }

end Sys2Proof.Machine

open Sys2Proof Sys2Proof.Machine

/-! ## Encoding -/

/-- Decoding the word of any well-formed command gives the command back (R88, R92). -/
def Obligations.EncodeThenDecodeIsIdentity : Prop :=
  ∀ i : Instr, i.wf = true → decode (encode i) = .ok i

/-- A word that decodes is the encoding of what it decodes to: no two words mean the same command (R88, R92). -/
def Obligations.DecodeThenEncodeIsIdentity : Prop :=
  ∀ (w : Word) (i : Instr), decode w = .ok i → encode i = w ∧ i.wf = true

/-- A word decodes to a command of opcode o exactly when it matches that row of the opcode table and, for EGCD, its
destinations are distinct; and at most one row matches a word (R88, R89). -/
def Obligations.DecodeAgreesWithOpcodeTable : Prop :=
  (∀ (w : Word) (o : Opcode),
    (∃ i, decode w = .ok i ∧ i.opcode = o) ↔
      (w &&& o.mask = o.matchWord ∧
        (o = .egcd → regField w .f1 ≠ regField w .f4 ∧ regField w .f1 ≠ regField w .f5 ∧ regField w .f4 ≠ regField w .f5))) ∧
    ∀ (w : Word) (o o' : Opcode), w &&& o.mask = o.matchWord → w &&& o'.mask = o'.matchWord → o = o'

/-- R95: the worked encodings, from the assembly text to the word, and each word decodes to its command. -/
def Obligations.WorkedEncodingsOfR95 : Prop :=
  (assembleLine "ISPRIME r1, r0".toList).map encode = some 0x0000000000000101#64 ∧
  (assembleLine "GCD r5, r4, r3".toList).map encode = some 0x0000000000034502#64 ∧
  (assembleLine "EGCD r0, r1, r2, r3, r4".toList).map encode = some 0x0000000002143003#64 ∧
  (assembleLine "MODINV r6, r4, r3".toList).map encode = some 0x0000000000034604#64 ∧
  (assembleLine "MODPOW r3, r0, r1, r2".toList).map encode = some 0x0000000000210305#64 ∧
  (assembleLine "MODPOWS r5, r0, r4, r2".toList).map encode = some 0x0000000000240506#64 ∧
  (assembleLine "MODMUL r2, r0, r1, r7".toList).map encode = some 0x0000000000710207#64 ∧
  (assembleLine "MODRED r2, r0, r1".toList).map encode = some 0x0000000000010208#64 ∧
  (assembleLine "MODSQR r1, r1, r2".toList).map encode = some 0x0000000000211107#64 ∧
  assembleLine "MODSQR r1, r1, r2".toList = assembleLine "MODMUL r1, r1, r1, r2".toList ∧
  decode 0x0000000000000101#64 = .ok (.isprime 1 0) ∧
  decode 0x0000000000034502#64 = .ok (.gcd 5 4 3) ∧
  decode 0x0000000002143003#64 = .ok (.egcd 0 1 2 3 4) ∧
  decode 0x0000000000034604#64 = .ok (.modinv 6 4 3) ∧
  decode 0x0000000000210305#64 = .ok (.modpow 3 0 1 2) ∧
  decode 0x0000000000240506#64 = .ok (.modpows 5 0 4 2) ∧
  decode 0x0000000000710207#64 = .ok (.modmul 2 0 1 7) ∧
  decode 0x0000000000010208#64 = .ok (.modred 2 0 1)

/-! ## Reset and the invariant -/

/-- R41: what reset leaves, the unspecified register values apart. -/
def Obligations.ResetLeavesTheStateOfR41 : Prop :=
  (∀ i, State.reset.isWritten i = false) ∧
    State.reset.windowRead 0x40 = 0 ∧ State.reset.windowRead 0x48 = 0 ∧ State.reset.windowRead 0x50 = 0 ∧
    State.reset.windowRead 0x58 = 0x0000000100004D45#64 ∧
    State.reset.status.busy = false ∧ State.reset.status.done = false ∧ State.reset.status.err = false ∧
    State.reset.status.zero = false ∧ State.reset.status.one = false ∧ State.reset.status.errCode = .noError ∧
    State.reset.status.overrun = false ∧ State.reset.irqEn = false ∧ State.reset.pending = none ∧
    State.reset.irq = false

/-- The invariant holds right after reset. -/
def Obligations.ResetStateMeetsInvariant : Prop := State.reset.Inv

/-- Every step keeps the invariant: BUSY exactly while a command is pending, DONE never with BUSY, ERR exactly when ERRCODE is
not 0, flags exclusive, the record matches LASTCMD, ERRCODE one that LASTCMD can raise, reset held while `rst` is 1. -/
def Obligations.EveryStepKeepsInvariant : Prop :=
  ∀ s t : State, s.Inv → step s = .next t → t.Inv

/-- From a state that meets the invariant nothing stops the MEE, unless a second host appears. -/
def Obligations.OnlyASecondHostStopsTheMachine : Prop :=
  ∀ s : State, s.Inv →
    ((∀ x, s.nextEvent ≠ .secondHost x) → ∃ t, step s = .next t) ∧
    (∀ x, s.nextEvent = .secondHost x → step s = .refused .secondHost)

/-- R231 and R41: when `rst` rises, one step raises its level and sets the state of R41, whatever the state before: no data
register is written and every one is marked unwritten, the pending command is abandoned with no DONE and no irq, and LASTCMD,
every field of STATUS and IRQ_EN are 0. -/
def Obligations.ResetAbandonsThePendingCommand : Prop :=
  ∀ s : State, s.nextEvent = .rstRise →
    ∃ t, step s = .next t ∧ t.rst = true ∧ t.regs = s.regs ∧ (∀ i, t.isWritten i = false) ∧ t.lastCmd = 0 ∧
      t.status = { busy := false, done := false, err := false, zero := false, one := false, errCode := .noError,
                   overrun := false } ∧
      t.irqEn = false ∧ t.irq = false ∧ t.pending = none ∧ t.windowRead 0x58 = 0x0000000100004D45#64

/-- While `rst` is 1 a host transaction is refused with no effect and no engine step happens; when `rst` returns to 0 the MEE
is IDLE in the same reset state (R230). -/
def Obligations.NothingHappensWhileResetIsHeld : Prop :=
  ∀ s : State, s.Inv → s.rst = true →
    (∀ x, s.nextEvent = .host x → ∃ t, step s = .next t ∧ SameMee s t ∧ Responds t 0 true) ∧
    ((s.nextEvent = .engine ∨ s.nextEvent = .engineRun) → ∃ t, step s = .next t ∧ SameMee s t) ∧
    (s.nextEvent = .rstFall →
      ∃ t, step s = .next t ∧ t.rst = false ∧ t.regs = s.regs ∧ (∀ i, t.isWritten i = false) ∧ t.lastCmd = 0 ∧
        t.status = Status.reset ∧ t.irqEn = false ∧ t.pending = none ∧ t.irq = false)

/-! ## The host's window -/

/-- R53: an access with other than eight byte enables, or not 8-byte aligned, is refused and changes nothing, whatever the
state. -/
def Obligations.IllegalAccessIsRefusedWithoutEffect : Prop :=
  ∀ (s : State) (x : HostTxn), s.nextEvent = .host x → (x.be ≠ 0xFF ∨ x.addr.toNat % 8 ≠ 0) →
    ∃ t, step s = .next t ∧ SameMee s t ∧ Responds t 0 true ∧ t.modelFaults = s.modelFaults

/-- R54: what a legal read returns at every offset, while IDLE or BUSY, with no error, and that it changes nothing. A data
register with `written` = 0 is the poison check of R54: `UnwrittenRegisterReadIsRecorded` says what happens there. -/
def Obligations.ReadsReturnTheWindow : Prop :=
  ∀ (s : State) (off : Nat), ReadsNext s off → (∀ i : Reg, off = 8 * i.val → s.isWritten i = true) →
    ∃ t d, step s = .next t ∧ Responds t d false ∧ SameMee s t ∧ t.modelFaults = s.modelFaults ∧
      (∀ i : Reg, off = 8 * i.val → d = s.reg i) ∧
      (off = 0x40 → d = s.lastCmd) ∧
      (off = 0x48 → ShowsStatus d s.status) ∧
      (off = 0x50 → d = if s.irqEn then 1 else 0) ∧
      (off = 0x58 → d = 0x0000000100004D45#64) ∧
      (0x60 ≤ off → d = 0)

/-- A host read of a register with `written` = 0 records UNWRITTEN_READ and changes nothing else (R23). That the run then goes
on, with the pattern the register happens to hold, is the model's choice (log 2). -/
def Obligations.UnwrittenRegisterReadIsRecorded : Prop :=
  ∀ (s : State) (i : Reg), ReadsNext s (8 * i.val) → s.isWritten i = false →
    ∃ t, step s = .next t ∧ Responds t (s.reg i) false ∧ SameMee s t ∧
      t.modelFaults = s.modelFaults ++ [ModelFault.unwrittenRead i]

/-- R55: a legal write to a data register while IDLE stores all 64 bits and marks the register written. -/
def Obligations.DataWriteWhileIdleStores : Prop :=
  ∀ (s : State) (i : Reg) (v : Word), WritesNext s (8 * i.val) v → s.status.busy = false →
    ∃ t, step s = .next t ∧ RespondsToWrite t ∧ t.reg i = v ∧ t.isWritten i = true ∧
      (∀ k, k ≠ i → t.reg k = s.reg k ∧ t.isWritten k = s.isWritten k) ∧
      t.lastCmd = s.lastCmd ∧ t.status = s.status ∧ t.irqEn = s.irqEn ∧ t.pending = s.pending

/-- R56: a legal write to a data register or to CMD while BUSY is dropped: nothing changes but OVERRUN, which becomes 1, and
the response is no error. -/
def Obligations.WriteWhileBusyIsDropped : Prop :=
  ∀ (s : State) (off : Nat) (v : Word), WritesNext s off v → off ≤ 0x40 → s.status.busy = true →
    ∃ t, step s = .next t ∧ RespondsToWrite t ∧ t.status = { s.status with overrun := true } ∧
      t.regs = s.regs ∧ t.written = s.written ∧ t.lastCmd = s.lastCmd ∧ t.irqEn = s.irqEn ∧ t.pending = s.pending

/-- R57: legal writes to the control registers, whatever BUSY holds: CMD accepts while IDLE, STATUS clears DONE by bit 1 and
OVERRUN by bit 16 and nothing else, CTRL takes bit 0, ID ignores. -/
def Obligations.ControlWritesActWhateverBusyHolds : Prop :=
  ∀ (s : State) (v : Word),
    (WritesNext s 0x40 v → s.status.busy = false →
      ∃ t, step s = .next t ∧ RespondsToWrite t ∧ t.lastCmd = v ∧ t.status.busy = true ∧
        t.pending.map Pending.word = some v) ∧
    (WritesNext s 0x48 v →
      ∃ t, step s = .next t ∧ RespondsToWrite t ∧
        t.status = { s.status with
          done := if v.getLsbD 1 then false else s.status.done
          overrun := if v.getLsbD 16 then false else s.status.overrun } ∧
        t.regs = s.regs ∧ t.written = s.written ∧ t.lastCmd = s.lastCmd ∧ t.irqEn = s.irqEn ∧ t.pending = s.pending) ∧
    (WritesNext s 0x50 v →
      ∃ t, step s = .next t ∧ RespondsToWrite t ∧ t.irqEn = v.getLsbD 0 ∧ t.regs = s.regs ∧ t.written = s.written ∧
        t.lastCmd = s.lastCmd ∧ t.status = s.status ∧ t.pending = s.pending) ∧
    (WritesNext s 0x58 v → ∃ t, step s = .next t ∧ RespondsToWrite t ∧ SameMee s t)

/-- R58: the reserved offsets read 0 and ignore writes, without an error. -/
def Obligations.ReservedOffsetsReadZeroAndIgnoreWrites : Prop :=
  ∀ (s : State) (off : Nat), off = 0x60 ∨ off = 0x68 ∨ off = 0x70 ∨ off = 0x78 →
    (ReadsNext s off → ∃ t, step s = .next t ∧ Responds t 0 false ∧ SameMee s t) ∧
    (∀ v, WritesNext s off v → ∃ t, step s = .next t ∧ RespondsToWrite t ∧ SameMee s t)

/-- R60: byte k of slot n of the window holds bits 8k+7 down to 8k of that slot's word, and eight lanes in address order make
the word again. -/
def Obligations.WindowBytesAreLittleEndian : Prop :=
  (∀ (s : State) (n k : Nat), n < 16 → k < 8 →
    s.windowByte (BitVec.ofNat 7 (8 * n + k)) = (s.windowRead (BitVec.ofNat 7 (8 * n))).extractLsb' (8 * k) 8) ∧
    ∀ w : Word, wordOfLanes (lanesOf w) = w

/-! ## Acceptance and the pending command -/

/-- R101: acceptance of any word, legal or not: LASTCMD, the STATUS fields, the operands in field order F2, F3, F4, LATENCY at
least 1, and the record of unwritten sources. -/
def Obligations.AcceptanceCapturesWordAndOperands : Prop :=
  ∀ (s : State) (w : Word), WritesNext s 0x40 w → s.status.busy = false →
    ∃ t p, step s = .next t ∧ t.lastCmd = w ∧
      t.status = { busy := true, done := false, err := false, zero := false, one := false, errCode := .noError,
                   overrun := s.status.overrun } ∧
      t.irqEn = s.irqEn ∧ t.regs = s.regs ∧ t.written = s.written ∧
      t.pending = some p ∧ p.word = w ∧ p.left = Config.latency w p.ops ∧ 1 ≤ p.left ∧
      (∀ e, decode w = .error e → p.ops = [] ∧ t.modelFaults = s.modelFaults) ∧
      (∀ i, decode w = .ok i →
        p.ops = (sourceFields i.opcode.format).map (fun f => s.reg (regAt w f)) ∧
        ∃ new, t.modelFaults = s.modelFaults ++ new ∧
          ∀ k : Reg, ModelFault.unwrittenRead k ∈ new ↔
            s.isWritten k = false ∧ ∃ f ∈ sourceFields i.opcode.format, regAt w f = k)

/-- R66: no host transaction, and no engine step before the completion, changes the word or the operands of a pending
command. -/
def Obligations.PendingCommandIsFixedAtAcceptance : Prop :=
  ∀ (s t : State) (p q : Pending), s.Inv → step s = .next t → s.pending = some p → t.pending = some q →
    q.word = p.word ∧ q.ops = p.ops ∧ q.left ≤ p.left ∧
      ((∃ x, s.nextEvent = .host x) → q = p ∧ t.regs = s.regs ∧ t.written = s.written ∧ t.lastCmd = s.lastCmd)

/-- R100: BUSY stands exactly beside a pending command; the MEE leaves IDLE only by accepting a command, and leaves BUSY only
by completing it or by reset. -/
def Obligations.IdleAndBusyChangeOnlyAsR100Says : Prop :=
  ∀ s t : State, s.Inv → step s = .next t →
    (t.status.busy = true ↔ t.pending ≠ none) ∧
      (s.status.busy = false → t.status.busy = true → ∃ w, WritesNext s 0x40 w ∧ t.pending.map Pending.word = some w) ∧
      (s.status.busy = true → t.status.busy = false →
        (EngineNext s ∧ t.status.done = true) ∨ s.nextEvent = .rstRise)

/-- R102: an engine step of a command with more than one step left takes one off and changes nothing a host can see. -/
def Obligations.EngineStepBeforeCompletionIsInvisible : Prop :=
  ∀ (s : State) (p : Pending), s.nextEvent = .engine → s.rst = false → s.pending = some p → 1 < p.left →
    ∃ t, step s = .next t ∧ t.pending = some { p with left := p.left - 1 } ∧
      (∀ off, t.windowRead off = s.windowRead off) ∧ t.written = s.written ∧ t.irq = s.irq

/-- When the pending word decodes to a command and its last engine step comes next, the step is `exec` of that command on the
state with the event taken; taking it changes only the inputs and the response ports. -/
def Obligations.LastEngineStepRunsTheDecodedCommand : Prop :=
  ∀ (s : State) (p : Pending) (i : Instr),
    s.nextEvent = .engine → s.rst = false → s.pending = some p → p.left = 1 → decode p.word = .ok i →
    step s = exec i s.takeEvent ∧
      s.takeEvent = { s with inputs := s.inputs.tail, rsp := none }

/-- A command placed by `withFetchWord` is the one the very next step runs, on the values its source registers hold (log 13). -/
def Obligations.PlacedCommandRunsOnTheNextStep : Prop :=
  ∀ (s : State) (i : Instr), i.wf = true →
    ∃ u : State, step (s.withFetchWord 64 (encode i).toNat) = exec i u ∧
      u.pendingOps = some ((sources i).map s.reg) ∧ u.regs = s.regs ∧ u.written = s.written ∧ u.irqEn = s.irqEn ∧
      u.inputs = s.inputs ∧ u.lastCmd = encode i ∧ (∃ t, exec i u = .next t)

/-- R202: a pending ILLEGAL word completes with ILLEGAL_CMD and writes nothing; LASTCMD, read at offset 0x40, is the word; and
the ILLEGAL words are exactly those with one of the listed faults. -/
def Obligations.IllegalWordCompletesWithIllegalCmd : Prop :=
  (∀ (s : State) (p : Pending), s.Inv → EngineNext s → s.pending = some p →
    (s.nextEvent = .engine → p.left = 1) → (∃ e, decode p.word = .error e) →
    ∃ t, step s = .next t ∧ EndedInError s.takeEvent t .illegalCmd ∧ t.windowRead 0x40 = p.word) ∧
    ∀ w : Word, (∃ e, decode w = .error e) ↔ HasListedFault w

/-! ## The commands complete -/

/-- R121: ISPRIME writes 1 exactly when n is a prime number and 0 otherwise, for every 64-bit value. -/
def Obligations.IsprimeDecidesPrimality : Prop :=
  ∀ (rd rs1 : Reg) (s : State) (a : Word), s.pendingOps = some [a] →
    ∃ (t : State) (p : Int), exec (.isprime rd rs1) s = .next t ∧ Succeeded s t [(rd, enc p)] p ∧
      ((0 ≤ sint a ∧ (sint a).toNat.Prime) → p = 1) ∧ (¬(0 ≤ sint a ∧ (sint a).toNat.Prime) → p = 0)

/-- GCD of non-negative operands writes their greatest common divisor (R130). -/
def Obligations.GcdWritesTheGreatestCommonDivisor : Prop :=
  ∀ (rd rs1 rs2 : Reg) (s : State) (a b : Word), s.pendingOps = some [a, b] → 0 ≤ sint a → 0 ≤ sint b →
    ∃ t, exec (.gcd rd rs1 rs2) s = .next t ∧
      Succeeded s t [(rd, enc (Nat.gcd (sint a).toNat (sint b).toNat))] (Nat.gcd (sint a).toNat (sint b).toNat)

/-- EGCD of non-negative operands writes g, x and y to its three destinations, and the patterns written read back as a
solution of a*x + b*y = g = gcd(a, b) (R133, R134, R135). -/
def Obligations.EgcdWritesBezoutCoefficients : Prop :=
  ∀ (rd rd2 rd3 rs1 rs2 : Reg) (s : State) (a b : Word), (Instr.egcd rd rd2 rd3 rs1 rs2).wf = true →
    s.pendingOps = some [a, b] → 0 ≤ sint a → 0 ≤ sint b →
    ∃ (t : State) (g x y : Int), exec (.egcd rd rd2 rd3 rs1 rs2) s = .next t ∧
      Succeeded s t [(rd, enc g), (rd2, enc x), (rd3, enc y)] g ∧
      (g.toNat, x, y) = egcd (sint a).toNat (sint b).toNat ∧
      g = Nat.gcd (sint a).toNat (sint b).toNat ∧
      sint (t.reg rd) = g ∧ sint a * sint (t.reg rd2) + sint b * sint (t.reg rd3) = g

/-- The recursion of R132: egcd(a, 0) = (a, 1, 0), else (g, y1, x1 - (a div b) * y1) from egcd(b, a mod b). -/
def Obligations.EgcdFollowsTheStandardRecursion : Prop :=
  (∀ a : Nat, egcd a 0 = (a, 1, 0)) ∧
    ∀ a b : Nat, 0 < b → ∀ (g : Nat) (x1 y1 : Int), egcd b (a % b) = (g, x1, y1) →
      egcd a b = (g, y1, x1 - ((a / b : Nat) : Int) * y1)

/-- R134: a*x + b*y = g exactly and g = gcd(a, b), for all a, b >= 0. -/
def Obligations.EgcdSatisfiesBezoutIdentity : Prop :=
  ∀ a b : Nat, (a : Int) * (egcd a b).2.1 + (b : Int) * (egcd a b).2.2 = (egcd a b).1 ∧ (egcd a b).1 = Nat.gcd a b

/-- R135: the coefficient bounds, and that every coefficient fits the signed 64-bit range. -/
def Obligations.EgcdCoefficientsAreBounded : Prop :=
  (∀ a b : Nat, a ≤ 2 ^ 63 - 1 → b ≤ 2 ^ 63 - 1 → 0 < Nat.gcd a b →
    (egcd a b).2.1.natAbs ≤ max 1 (b / Nat.gcd a b) ∧ (egcd a b).2.2.natAbs ≤ max 1 (a / Nat.gcd a b) ∧
      (egcd a b).2.1.natAbs ≤ 2 ^ 63 - 1 ∧ (egcd a b).2.2.natAbs ≤ 2 ^ 63 - 1) ∧
    egcd 0 0 = (0, 1, 0)

/-- R138: MODINV writes the unique r in [0, m) with a*r mod m = 1 mod m, 0 for m = 1, and it is EGCD's x reduced mod m. -/
def Obligations.ModinvWritesTheUniqueInverse : Prop :=
  ∀ (rd rs1 rs2 : Reg) (s : State) (a m : Word), s.pendingOps = some [a, m] → 0 ≤ sint a → 0 < sint m →
    Nat.gcd (sint a).toNat (sint m).toNat = 1 →
    ∃ (t : State) (r : Int), exec (.modinv rd rs1 rs2) s = .next t ∧ Succeeded s t [(rd, enc r)] r ∧
      0 ≤ r ∧ r < sint m ∧ (sint a * r) % sint m = 1 % sint m ∧
      (∀ r' : Int, 0 ≤ r' → r' < sint m → (sint a * r') % sint m = 1 % sint m → r' = r) ∧
      (1 < sint m → (sint a * r) % sint m = 1) ∧ (sint m = 1 → r = 0) ∧
      (∀ (rd1 rd2 rd3 q1 q2 : Reg) (u v : State), (Instr.egcd rd1 rd2 rd3 q1 q2).wf = true →
        u.pendingOps = some [a, m] → exec (.egcd rd1 rd2 rd3 q1 q2) u = .next v → r = sint (v.reg rd2) % sint m)

/-- R204: MODINV within its domain with gcd(a, m) != 1 ends in INVERSE_NOT_FOUND and writes nothing; it never does so when
the gcd is 1. -/
def Obligations.ModinvSignalsInverseNotFound : Prop :=
  ∀ (rd rs1 rs2 : Reg) (s : State) (a m : Word), s.pendingOps = some [a, m] → 0 ≤ sint a → 0 < sint m →
    ∃ t, exec (.modinv rd rs1 rs2) s = .next t ∧
      (Nat.gcd (sint a).toNat (sint m).toNat ≠ 1 → EndedInError s t .inverseNotFound) ∧
      (Nat.gcd (sint a).toNat (sint m).toNat = 1 → t.status.errCode = .noError)

/-- R151: MODPOW writes (b^e) mod m for every operand in the domain, with b^0 = 1, a value in [0, m). -/
def Obligations.ModpowWritesThePowerModM : Prop :=
  ∀ (rd rs1 rs2 rs3 : Reg) (s : State) (b e m : Word), s.pendingOps = some [b, e, m] →
    0 ≤ sint b → 0 ≤ sint e → 0 < sint m →
    ∃ (t : State) (r : Int), exec (.modpow rd rs1 rs2 rs3) s = .next t ∧ Succeeded s t [(rd, enc r)] r ∧
      r = (sint b) ^ (sint e).toNat % sint m ∧ 0 ≤ r ∧ r < sint m

/-- MODPOWS with base below the modulus writes (b^e) mod m, as MODPOW does (R154). -/
def Obligations.ModpowsWritesThePowerBelowModulus : Prop :=
  ∀ (rd rs1 rs2 rs3 : Reg) (s : State) (b e m : Word), s.pendingOps = some [b, e, m] →
    0 ≤ sint b → 0 ≤ sint e → sint b < sint m →
    ∃ (t : State) (r : Int), exec (.modpows rd rs1 rs2 rs3) s = .next t ∧ Succeeded s t [(rd, enc r)] r ∧
      r = (sint b) ^ (sint e).toNat % sint m ∧ exec (.modpow rd rs1 rs2 rs3) s = .next t

/-- R205: MODPOWS within its domain and base >= mod ends in SYMBOL_OVERFLOW and writes nothing; MODPOW with the same operands
reduces the base silently. -/
def Obligations.ModpowsSignalsSymbolOverflow : Prop :=
  ∀ (rd rs1 rs2 rs3 : Reg) (s : State) (b e m : Word), s.pendingOps = some [b, e, m] →
    0 ≤ sint b → 0 ≤ sint e → 0 < sint m → sint m ≤ sint b →
    (∃ t, exec (.modpows rd rs1 rs2 rs3) s = .next t ∧ EndedInError s t .symbolOverflow) ∧
    ∃ t, exec (.modpow rd rs1 rs2 rs3) s = .next t ∧ t.status.err = false ∧
      sint (t.reg rd) = (sint b % sint m) ^ (sint e).toNat % sint m

/-- MODMUL writes (a * b) mod m from the exact product (R165, R12). -/
def Obligations.ModmulWritesTheExactProductModM : Prop :=
  ∀ (rd rs1 rs2 rs3 : Reg) (s : State) (a b m : Word), s.pendingOps = some [a, b, m] →
    0 ≤ sint a → 0 ≤ sint b → 0 < sint m →
    ∃ t, exec (.modmul rd rs1 rs2 rs3) s = .next t ∧
      Succeeded s t [(rd, enc (sint a * sint b % sint m))] (sint a * sint b % sint m) ∧
      sint (t.reg rd) = sint a * sint b % sint m

/-- R166: the value of MODMUL, that it lies in [0, m), and its three laws. -/
def Obligations.ModmulLawsOfR166 : Prop :=
  ∀ (rd rs1 rs2 rs3 : Reg) (s t : State) (a b m : Word), s.pendingOps = some [a, b, m] →
    0 ≤ sint a → 0 ≤ sint b → 0 < sint m → exec (.modmul rd rs1 rs2 rs3) s = .next t →
    (sint (t.reg rd) = sint a * sint b % sint m ∧ 0 ≤ sint (t.reg rd) ∧ sint (t.reg rd) < sint m) ∧
    (∀ u v : State, u.pendingOps = some [b, a, m] → exec (.modmul rd rs1 rs2 rs3) u = .next v → v.reg rd = t.reg rd) ∧
    (∀ (u u' v v' w w' : State), u.pendingOps = some [a, m] → exec (.modred rd rs1 rs2) u = .next u' →
      v.pendingOps = some [b, m] → exec (.modred rd rs1 rs2) v = .next v' →
      w.pendingOps = some [u'.reg rd, v'.reg rd, m] → exec (.modmul rd rs1 rs2 rs3) w = .next w' →
      w'.reg rd = t.reg rd) ∧
    (∀ u v : State, sint b = 1 → u.pendingOps = some [a, m] → exec (.modred rd rs1 rs2) u = .next v →
      v.reg rd = t.reg rd)

/-- MODRED writes a mod m (R168). -/
def Obligations.ModredWritesTheRemainder : Prop :=
  ∀ (rd rs1 rs2 : Reg) (s : State) (a m : Word), s.pendingOps = some [a, m] → 0 ≤ sint a → 0 < sint m →
    ∃ t, exec (.modred rd rs1 rs2) s = .next t ∧ Succeeded s t [(rd, enc (sint a % sint m))] (sint a % sint m) ∧
      sint (t.reg rd) = sint a % sint m

/-- R203: a command ends in DOMAIN exactly when an operand lies outside its domain, and then writes nothing. -/
def Obligations.DomainErrorsAreTheTableOfR203 : Prop :=
  ∀ (i : Instr) (s : State) (ops : List Word), s.pendingOps = some ops → ops.length = (sources i).length →
    ∃ t, exec i s = .next t ∧ (OutsideDomain i ops → EndedInError s t .domain) ∧
      (¬OutsideDomain i ops → t.status.errCode ≠ .domain)

/-- R208: the one code a completing command reports: ILLEGAL_CMD at decode, then DOMAIN, then SYMBOL_OVERFLOW (MODPOWS) or
INVERSE_NOT_FOUND (MODINV), else none. -/
def Obligations.ErrorCodeFollowsThePriority : Prop :=
  ∀ (s : State) (p : Pending), s.Inv → EngineNext s → s.pending = some p → (s.nextEvent = .engine → p.left = 1) →
    ∃ t, step s = .next t ∧
      (∀ e, decode p.word = .error e → t.status.errCode = .illegalCmd) ∧
      (∀ i, decode p.word = .ok i →
        (OutsideDomain i p.ops → t.status.errCode = .domain) ∧
        (¬OutsideDomain i p.ops → SymbolTooLarge i p.ops → t.status.errCode = .symbolOverflow) ∧
        (¬OutsideDomain i p.ops → HasNoInverse i p.ops → t.status.errCode = .inverseNotFound) ∧
        (¬OutsideDomain i p.ops → ¬SymbolTooLarge i p.ops → ¬HasNoInverse i p.ops →
          t.status.errCode = .noError ∧ t.status.err = false) ∧
        ¬(SymbolTooLarge i p.ops ∧ HasNoInverse i p.ops))

/-- R213: while a command is pending no step changes a data register, and neither does the step that ends it in an error: so an
error completion leaves every data register as it was before the command. -/
def Obligations.ErrorsArePrecise : Prop :=
  ∀ s t : State, s.Inv → step s = .next t → s.pending ≠ none → (t.pending ≠ none ∨ t.status.err = true) →
    t.regs = s.regs ∧ t.written = s.written

/-- R169: MODRED equals MODMUL(a, 1, m) for every a >= 0 and m > 0, and does not fail on a base and modulus MODPOW accepts. -/
def Obligations.ModredIsModmulByOne : Prop :=
  ∀ (rd rs1 rs2 rs3 : Reg) (s u v : State) (a e m : Word), s.pendingOps = some [a, m] →
    u.pendingOps = some [a, enc 1, m] → v.pendingOps = some [a, e, m] →
    (0 ≤ sint a → 0 < sint m →
      ∃ t t', exec (.modred rd rs1 rs2) s = .next t ∧ exec (.modmul rd rs1 rs2 rs3) u = .next t' ∧
        t.reg rd = t'.reg rd) ∧
    (∀ v', exec (.modpow rd rs1 rs2 rs3) v = .next v' → v'.status.err = false →
      ∃ t, exec (.modred rd rs1 rs2) s = .next t ∧ t.status.err = false)

/-- R155: with n = p*q for distinct primes, gcd(e, φ) = 1 and d = MODINV(e, φ), MODPOWS(s, e, n) succeeds with some c in
[0, n) and MODPOW(c, d, n) gives s back. -/
def Obligations.EncryptThenDecryptIsIdentity : Prop :=
  ∀ (p q e sym : Nat) (rd1 rd2 rd3 r1 r2 r3 : Reg) (s1 s2 : State),
    p.Prime → q.Prime → p ≠ q → p * q ≤ 2 ^ 63 - 1 → e ≤ 2 ^ 63 - 1 → Nat.gcd e ((p - 1) * (q - 1)) = 1 → sym < p * q →
    s1.pendingOps = some [enc e, enc ((p - 1) * (q - 1) : Nat)] →
    s2.pendingOps = some [enc sym, enc e, enc (p * q : Nat)] →
    ∃ t1 t2, exec (.modinv rd1 r1 r2) s1 = .next t1 ∧ t1.status.err = false ∧
      exec (.modpows rd2 r1 r2 r3) s2 = .next t2 ∧ t2.status.err = false ∧
      0 ≤ sint (t2.reg rd2) ∧ sint (t2.reg rd2) < (p * q : Nat) ∧
      ∀ s3 : State, s3.pendingOps = some [t2.reg rd2, t1.reg rd1, enc (p * q : Nat)] →
        ∃ t3, exec (.modpow rd3 r1 r2 r3) s3 = .next t3 ∧ t3.status.err = false ∧ sint (t3.reg rd3) = sym

/-! ## Frames and whole-machine rules -/

/-- R104: the destinations and the status a command leaves depend on the command and its captured operands alone. -/
def Obligations.ResultDependsOnOperandsAlone : Prop :=
  ∀ (i : Instr) (s u s' : State), s.pendingOps = u.pendingOps → exec i s = .next s' →
    ∃ u', exec i u = .next u' ∧ (s'.status.err = false → ∀ k ∈ dests i, s'.reg k = u'.reg k) ∧
      s'.status.err = u'.status.err ∧ s'.status.errCode = u'.status.errCode ∧ s'.status.zero = u'.status.zero ∧
      s'.status.one = u'.status.one

/-- R111: what a successful command writes to RD, and to EGCD's other two destinations: every result is at least 0, but for
EGCD's coefficients, which stay inside the symmetric range. -/
def Obligations.ResultsAreNonNegative : Prop :=
  ∀ (i : Instr) (s t : State), i.wf = true → exec i s = .next t → t.status.err = false → ∀ k ∈ dests i,
    -(2 ^ 63 - 1) ≤ sint (t.reg k) ∧
      ((∀ rd rd2 rd3 rs1 rs2, i = .egcd rd rd2 rd3 rs1 rs2 → k = rd) → 0 ≤ sint (t.reg k))

/-- R110: no command touches CTRL, OVERRUN, LASTCMD, a register that is not a destination of its, or anything outside the
MEE, whatever its outcome; and a source that is not a destination keeps its value. -/
def Obligations.CommandsChangeOnlyDestinationsAndStatus : Prop :=
  ∀ (i : Instr) (s t : State), exec i s = .next t →
    KeptByCompletion s t ∧ (∀ k, k ∉ dests i → t.reg k = s.reg k ∧ t.isWritten k = s.isWritten k)

/-- Every byte of the window is unchanged by a command, but the bytes of its destinations and of STATUS. -/
def Obligations.CommandsChangeOnlyTheirWindowBytes : Prop :=
  ∀ (i : Instr) (s t : State) (off : BitVec 7), exec i s = .next t →
    (∀ k ∈ dests i, off.toNat / 8 ≠ k.val) → off.toNat / 8 ≠ 9 → t.windowByte off = s.windowByte off

/-- R24: only an accepted host write to its offset while IDLE, or the commit of a successful command that names it as a
destination, changes a data register; reset and error completions do not. -/
def Obligations.OnlyTwoThingsWriteADataRegister : Prop :=
  ∀ (s t : State) (k : Reg), step s = .next t → t.reg k ≠ s.reg k →
    (WritesNext s (8 * k.val) (t.reg k) ∧ s.status.busy = false) ∨
    (EngineNext s ∧ t.status.err = false ∧ t.status.done = true ∧ t.pending = none ∧
      ∃ p i, s.pending = some p ∧ decode p.word = .ok i ∧ k ∈ dests i)

/-- R34: OVERRUN becomes 1 exactly when a legal write to a data register or CMD meets BUSY, and becomes 0 only by a host
write to STATUS with bit 16 set or by reset. -/
def Obligations.OverrunIsSetByDropsAndClearedByHostOrReset : Prop :=
  ∀ s t : State, step s = .next t →
    ((∃ off v, WritesNext s off v ∧ off ≤ 0x40 ∧ s.status.busy = true) → t.status.overrun = true) ∧
    (s.status.overrun = false → t.status.overrun = true →
      ∃ off v, WritesNext s off v ∧ off ≤ 0x40 ∧ s.status.busy = true) ∧
    (s.status.overrun = true → t.status.overrun = false →
      (∃ v, WritesNext s 0x48 v ∧ v.getLsbD 16 = true) ∨ s.nextEvent = .rstRise)

/-- R30: DONE is set at every completion, is cleared in the three listed cases and no other, and never stands beside BUSY. -/
def Obligations.DoneIsSetAndClearedAsR30Says : Prop :=
  ∀ s t : State, s.Inv → step s = .next t →
    (s.status.busy = true → t.status.busy = false → s.nextEvent ≠ .rstRise → t.status.done = true) ∧
    (s.status.done = false → t.status.done = true → s.status.busy = true ∧ t.status.busy = false ∧ EngineNext s) ∧
    ((∃ v, WritesNext s 0x48 v ∧ v.getLsbD 1 = true) → t.status.done = false) ∧
    ((∃ w, WritesNext s 0x40 w) → s.status.busy = false → t.status.done = false) ∧
    (s.nextEvent = .rstRise → t.status.done = false) ∧
    (s.status.done = true → t.status.done = false →
      (∃ v, WritesNext s 0x48 v ∧ v.getLsbD 1 = true) ∨ (∃ w, WritesNext s 0x40 w) ∨ s.nextEvent = .rstRise) ∧
    ¬(t.status.done = true ∧ t.status.busy = true)

/-- ERR, ERRCODE, ZERO and ONE change only at an acceptance, at a completion or by reset: clearing DONE does not clear them
(R31, R32). -/
def Obligations.ConditionFieldsChangeOnlyAtAcceptanceAndCompletion : Prop :=
  ∀ s t : State, s.Inv → step s = .next t →
    (t.status.err ≠ s.status.err ∨ t.status.errCode ≠ s.status.errCode ∨ t.status.zero ≠ s.status.zero ∨
      t.status.one ≠ s.status.one) →
    (s.status.busy = false ∧ t.status.busy = true) ∨ (s.status.busy = true ∧ t.status.busy = false) ∨
      s.nextEvent = .rstRise

/-- LASTCMD changes only by acceptance, to the word written, or by reset, to 0 (R27, R41). -/
def Obligations.LastcmdIsTheLastAcceptedWord : Prop :=
  ∀ s t : State, step s = .next t →
    (t.lastCmd = s.lastCmd ∨ (s.nextEvent = .rstRise ∧ t.lastCmd = 0) ∨
      (WritesNext s 0x40 t.lastCmd ∧ s.status.busy = false)) ∧
    (∀ w, WritesNext s 0x40 w → s.status.busy = false → t.lastCmd = w)

/-- irq: a completion, in success or in error, raises it exactly when IRQ_EN is 1; setting IRQ_EN while DONE = 1 raises it at
once; clearing DONE or accepting a command lowers it; OVERRUN does not raise it (R38, R210). -/
def Obligations.InterruptFollowsDoneAndEnable : Prop :=
  ∀ s t : State, s.Inv → step s = .next t →
    (s.status.busy = true → t.status.busy = false → s.nextEvent ≠ .rstRise → t.irq = s.irqEn) ∧
    (∀ v, WritesNext s 0x50 v → t.irq = (s.status.done && v.getLsbD 0)) ∧
    (∀ v, WritesNext s 0x48 v → t.irq = (s.irq && !v.getLsbD 1)) ∧
    (∀ w, WritesNext s 0x40 w → s.status.busy = false → t.irq = false) ∧
    (∀ off v, WritesNext s off v → off ≤ 0x40 → s.status.busy = true → t.irq = s.irq)

/-- The model records UNWRITTEN_READ exactly at a host read of an unwritten register and at the acceptance of a command that
names one as a source, and otherwise nothing; no record is ever lost (R23, R209; log 2, log 9). -/
def Obligations.UnwrittenReadsAreRecorded : Prop :=
  ∀ s t : State, step s = .next t →
    ∃ new : List ModelFault, t.modelFaults = s.modelFaults ++ new ∧
      ∀ k : Reg, ModelFault.unwrittenRead k ∈ new ↔
        s.isWritten k = false ∧
          (ReadsNext s (8 * k.val) ∨
            ∃ w i, WritesNext s 0x40 w ∧ s.status.busy = false ∧ decode w = .ok i ∧ k ∈ sources i)

/-- A BUSY MEE that is left alone completes: `left` engine steps later it is IDLE with DONE = 1 (R102, R112, R243). -/
def Obligations.BusyMeeCompletes : Prop :=
  ∀ (s : State) (p : Pending), s.Inv → s.rst = false → s.inputs = [] → s.pending = some p →
    ∃ t, Sys2Proof.core.run p.left s = .next t ∧ t.status.busy = false ∧ t.status.done = true ∧ t.pending = none ∧
      t.lastCmd = s.lastCmd

/-- Whatever transactions the host makes between a command's acceptance and its completion, the command computes from the
register values at acceptance: registers and status end as `exec` on those values leaves them (R63, R66, R104, R241). The
engine's steps are the one event `engineRun` (log 6). -/
def Obligations.HostCannotDisturbAPendingCommand : Prop :=
  ∀ (i : Instr) (s : State) (xs : List HostTxn), i.wf = true → s.Inv → s.rst = false → s.status.busy = false →
    s.inputs = .host (memWrite 0x40 (encode i)) :: (xs.map Event.host ++ [.engineRun]) →
    ∃ t v, Sys2Proof.core.run (xs.length + 2) s = .next t ∧
      exec i (s.pendingOn (encode i) ((sources i).map s.reg)) = .next v ∧
      t.regs = v.regs ∧ t.written = v.written ∧ t.lastCmd = encode i ∧ t.pending = none ∧
      t.status = { v.status with overrun := t.status.overrun }

/-! ## Work counts -/

/-- R152: for e > 0 the square-and-multiply loop runs floor(log2 e) + 1 <= 63 times and calls mulmod once a round and once
more for every 1 bit of e; for e = 0 it does not run. -/
def Obligations.ModpowRoundsAreBitLength : Prop :=
  ∀ b e m : Nat, e ≤ 2 ^ 63 - 1 →
    (0 < e → (modpowCounted b e m).rounds = Nat.log2 e + 1 ∧ (modpowCounted b e m).rounds ≤ 63 ∧
      (modpowCounted b e m).mulmods = Nat.log2 e + 1 + (Nat.digits 2 e).sum) ∧
    (e = 0 → (modpowCounted b e m).rounds = 0 ∧ (modpowCounted b e m).mulmods = 0)

/-- The Euclid loops of GCD, EGCD and MODINV take fewer than 92 steps on operands below 2^63 (R112, R242): GCD's counted loop,
and, of the loops the commands run, 91 rounds of fuel already give GCD's value and the whole triple that EGCD and MODINV use. -/
def Obligations.EuclidTakesFewerThan92Steps : Prop :=
  ∀ a b : Nat, a < 2 ^ 63 → b < 2 ^ 63 →
    euclidSteps a b < 92 ∧ euclid 91 a b = gcdOf a b ∧ egcdRec 91 a b = egcd a b
end

