-- ==== Sys2Proof/Laws/State.lean ====
section
/-! SUPPORT. One lemma per field of State for each state update, and per field of Status for each change of STATUS; all true
by rfl, so that no later proof unfolds a record update. -/

namespace Sys2Proof.Machine

/-! ### `writeReg` -/

@[simp] theorem State.writeReg_regs (s : State) (k : Reg) (v : Word) :
    (s.writeReg k v).regs = s.regs.set k.val v k.isLt := rfl
@[simp] theorem State.writeReg_written (s : State) (k : Reg) (v : Word) :
    (s.writeReg k v).written = s.written.set k.val true k.isLt := rfl
@[simp] theorem State.writeReg_lastCmd (s : State) (k : Reg) (v : Word) :
    (s.writeReg k v).lastCmd = s.lastCmd := rfl
@[simp] theorem State.writeReg_status (s : State) (k : Reg) (v : Word) :
    (s.writeReg k v).status = s.status := rfl
@[simp] theorem State.writeReg_irqEn (s : State) (k : Reg) (v : Word) :
    (s.writeReg k v).irqEn = s.irqEn := rfl
@[simp] theorem State.writeReg_pending (s : State) (k : Reg) (v : Word) :
    (s.writeReg k v).pending = s.pending := rfl
@[simp] theorem State.writeReg_rst (s : State) (k : Reg) (v : Word) :
    (s.writeReg k v).rst = s.rst := rfl
@[simp] theorem State.writeReg_rsp (s : State) (k : Reg) (v : Word) :
    (s.writeReg k v).rsp = s.rsp := rfl
@[simp] theorem State.writeReg_inputs (s : State) (k : Reg) (v : Word) :
    (s.writeReg k v).inputs = s.inputs := rfl
@[simp] theorem State.writeReg_modelFaults (s : State) (k : Reg) (v : Word) :
    (s.writeReg k v).modelFaults = s.modelFaults := rfl
@[simp] theorem State.writeReg_freeCount (s : State) (k : Reg) (v : Word) :
    (s.writeReg k v).freeCount = s.freeCount := rfl

/-! ### `noteReads` -/

@[simp] theorem State.noteReads_regs (s : State) (rs : List Reg) :
    (s.noteReads rs).regs = s.regs := rfl
@[simp] theorem State.noteReads_written (s : State) (rs : List Reg) :
    (s.noteReads rs).written = s.written := rfl
@[simp] theorem State.noteReads_lastCmd (s : State) (rs : List Reg) :
    (s.noteReads rs).lastCmd = s.lastCmd := rfl
@[simp] theorem State.noteReads_status (s : State) (rs : List Reg) :
    (s.noteReads rs).status = s.status := rfl
@[simp] theorem State.noteReads_irqEn (s : State) (rs : List Reg) :
    (s.noteReads rs).irqEn = s.irqEn := rfl
@[simp] theorem State.noteReads_pending (s : State) (rs : List Reg) :
    (s.noteReads rs).pending = s.pending := rfl
@[simp] theorem State.noteReads_rst (s : State) (rs : List Reg) :
    (s.noteReads rs).rst = s.rst := rfl
@[simp] theorem State.noteReads_rsp (s : State) (rs : List Reg) :
    (s.noteReads rs).rsp = s.rsp := rfl
@[simp] theorem State.noteReads_inputs (s : State) (rs : List Reg) :
    (s.noteReads rs).inputs = s.inputs := rfl
@[simp] theorem State.noteReads_modelFaults (s : State) (rs : List Reg) :
    (s.noteReads rs).modelFaults = s.modelFaults ++ (rs.filter fun r => !s.isWritten r).map ModelFault.unwrittenRead := rfl
@[simp] theorem State.noteReads_freeCount (s : State) (rs : List Reg) :
    (s.noteReads rs).freeCount = s.freeCount := rfl

/-! ### `accept` -/

@[simp] theorem State.accept_regs (s : State) (w : Word) :
    (s.accept w).regs = s.regs := rfl
@[simp] theorem State.accept_written (s : State) (w : Word) :
    (s.accept w).written = s.written := rfl
@[simp] theorem State.accept_lastCmd (s : State) (w : Word) :
    (s.accept w).lastCmd = w := rfl
@[simp] theorem State.accept_status (s : State) (w : Word) :
    (s.accept w).status = s.status.accepted := rfl
@[simp] theorem State.accept_irqEn (s : State) (w : Word) :
    (s.accept w).irqEn = s.irqEn := rfl
@[simp] theorem State.accept_pending (s : State) (w : Word) :
    (s.accept w).pending = some { word := w, ops := s.captured w, left := Config.latency w (s.captured w) } := rfl
@[simp] theorem State.accept_rst (s : State) (w : Word) :
    (s.accept w).rst = s.rst := rfl
@[simp] theorem State.accept_rsp (s : State) (w : Word) :
    (s.accept w).rsp = s.rsp := rfl
@[simp] theorem State.accept_inputs (s : State) (w : Word) :
    (s.accept w).inputs = s.inputs := rfl
@[simp] theorem State.accept_modelFaults (s : State) (w : Word) :
    (s.accept w).modelFaults = (s.noteReads (wordSources w)).modelFaults := rfl
@[simp] theorem State.accept_freeCount (s : State) (w : Word) :
    (s.accept w).freeCount = s.freeCount := rfl

/-! ### `fail` -/

@[simp] theorem State.fail_regs (s : State) (c : ErrCode) :
    (s.fail c).regs = s.regs := rfl
@[simp] theorem State.fail_written (s : State) (c : ErrCode) :
    (s.fail c).written = s.written := rfl
@[simp] theorem State.fail_lastCmd (s : State) (c : ErrCode) :
    (s.fail c).lastCmd = s.lastCmd := rfl
@[simp] theorem State.fail_status (s : State) (c : ErrCode) :
    (s.fail c).status = s.status.failed c := rfl
@[simp] theorem State.fail_irqEn (s : State) (c : ErrCode) :
    (s.fail c).irqEn = s.irqEn := rfl
@[simp] theorem State.fail_pending (s : State) (c : ErrCode) :
    (s.fail c).pending = none := rfl
@[simp] theorem State.fail_rst (s : State) (c : ErrCode) :
    (s.fail c).rst = s.rst := rfl
@[simp] theorem State.fail_rsp (s : State) (c : ErrCode) :
    (s.fail c).rsp = s.rsp := rfl
@[simp] theorem State.fail_inputs (s : State) (c : ErrCode) :
    (s.fail c).inputs = s.inputs := rfl
@[simp] theorem State.fail_modelFaults (s : State) (c : ErrCode) :
    (s.fail c).modelFaults = s.modelFaults := rfl
@[simp] theorem State.fail_freeCount (s : State) (c : ErrCode) :
    (s.fail c).freeCount = s.freeCount := rfl

/-! ### `irqRequest` -/

theorem State.irqRequest_eq_some (s : State) (l : IrqLine) :
    s.irqRequest = some l ↔ s.irq = true ∧ l = Config.irqLine := by
  cases h : s.irq <;> simp [State.irqRequest, h, eq_comm]
theorem State.irqRequest_eq_none (s : State) : s.irqRequest = none ↔ s.irq = false := by
  cases h : s.irq <;> simp [State.irqRequest, h]
theorem State.irqLineLevel_eq_true (s : State) (n : Nat) :
    s.irqLineLevel n = true ↔ s.irq = true ∧ Config.irqLine.number = n := by
  cases h : s.irq <;> simp [State.irqLineLevel, State.irqRequest, h]

/-! ### `resetState` -/

@[simp] theorem State.resetState_regs (s : State) :
    (s.resetState).regs = s.regs := rfl
@[simp] theorem State.resetState_written (s : State) :
    (s.resetState).written = Vector.replicate 8 false := rfl
@[simp] theorem State.resetState_lastCmd (s : State) :
    (s.resetState).lastCmd = 0 := rfl
@[simp] theorem State.resetState_status (s : State) :
    (s.resetState).status = Status.reset := rfl
@[simp] theorem State.resetState_irqEn (s : State) :
    (s.resetState).irqEn = false := rfl
@[simp] theorem State.resetState_pending (s : State) :
    (s.resetState).pending = none := rfl
@[simp] theorem State.resetState_rst (s : State) :
    (s.resetState).rst = s.rst := rfl
@[simp] theorem State.resetState_rsp (s : State) :
    (s.resetState).rsp = none := rfl
@[simp] theorem State.resetState_inputs (s : State) :
    (s.resetState).inputs = s.inputs := rfl
@[simp] theorem State.resetState_modelFaults (s : State) :
    (s.resetState).modelFaults = s.modelFaults := rfl
@[simp] theorem State.resetState_freeCount (s : State) :
    (s.resetState).freeCount = s.freeCount := rfl

/-! ### `respond` -/

@[simp] theorem State.respond_regs (s : State) (d : Word) (e : Bool) :
    (s.respond d e).regs = s.regs := rfl
@[simp] theorem State.respond_written (s : State) (d : Word) (e : Bool) :
    (s.respond d e).written = s.written := rfl
@[simp] theorem State.respond_lastCmd (s : State) (d : Word) (e : Bool) :
    (s.respond d e).lastCmd = s.lastCmd := rfl
@[simp] theorem State.respond_status (s : State) (d : Word) (e : Bool) :
    (s.respond d e).status = s.status := rfl
@[simp] theorem State.respond_irqEn (s : State) (d : Word) (e : Bool) :
    (s.respond d e).irqEn = s.irqEn := rfl
@[simp] theorem State.respond_pending (s : State) (d : Word) (e : Bool) :
    (s.respond d e).pending = s.pending := rfl
@[simp] theorem State.respond_rst (s : State) (d : Word) (e : Bool) :
    (s.respond d e).rst = s.rst := rfl
@[simp] theorem State.respond_rsp (s : State) (d : Word) (e : Bool) :
    (s.respond d e).rsp = some { rdata := d, err := e } := rfl
@[simp] theorem State.respond_inputs (s : State) (d : Word) (e : Bool) :
    (s.respond d e).inputs = s.inputs := rfl
@[simp] theorem State.respond_modelFaults (s : State) (d : Word) (e : Bool) :
    (s.respond d e).modelFaults = s.modelFaults := rfl
@[simp] theorem State.respond_freeCount (s : State) (d : Word) (e : Bool) :
    (s.respond d e).freeCount = s.freeCount := rfl

/-! ### `refuseTxn` -/

@[simp] theorem State.refuseTxn_regs (s : State) :
    (s.refuseTxn).regs = s.regs := rfl
@[simp] theorem State.refuseTxn_written (s : State) :
    (s.refuseTxn).written = s.written := rfl
@[simp] theorem State.refuseTxn_lastCmd (s : State) :
    (s.refuseTxn).lastCmd = s.lastCmd := rfl
@[simp] theorem State.refuseTxn_status (s : State) :
    (s.refuseTxn).status = s.status := rfl
@[simp] theorem State.refuseTxn_irqEn (s : State) :
    (s.refuseTxn).irqEn = s.irqEn := rfl
@[simp] theorem State.refuseTxn_pending (s : State) :
    (s.refuseTxn).pending = s.pending := rfl
@[simp] theorem State.refuseTxn_rst (s : State) :
    (s.refuseTxn).rst = s.rst := rfl
@[simp] theorem State.refuseTxn_rsp (s : State) :
    (s.refuseTxn).rsp = some { rdata := 0#64, err := true } := rfl
@[simp] theorem State.refuseTxn_inputs (s : State) :
    (s.refuseTxn).inputs = s.inputs := rfl
@[simp] theorem State.refuseTxn_modelFaults (s : State) :
    (s.refuseTxn).modelFaults = s.modelFaults := rfl
@[simp] theorem State.refuseTxn_freeCount (s : State) :
    (s.refuseTxn).freeCount = s.freeCount := rfl

/-! ### `serveRead` -/

@[simp] theorem State.serveRead_regs (s : State) (a : BitVec 7) :
    (s.serveRead a).regs = s.regs := rfl
@[simp] theorem State.serveRead_written (s : State) (a : BitVec 7) :
    (s.serveRead a).written = s.written := rfl
@[simp] theorem State.serveRead_lastCmd (s : State) (a : BitVec 7) :
    (s.serveRead a).lastCmd = s.lastCmd := rfl
@[simp] theorem State.serveRead_status (s : State) (a : BitVec 7) :
    (s.serveRead a).status = s.status := rfl
@[simp] theorem State.serveRead_irqEn (s : State) (a : BitVec 7) :
    (s.serveRead a).irqEn = s.irqEn := rfl
@[simp] theorem State.serveRead_pending (s : State) (a : BitVec 7) :
    (s.serveRead a).pending = s.pending := rfl
@[simp] theorem State.serveRead_rst (s : State) (a : BitVec 7) :
    (s.serveRead a).rst = s.rst := rfl
@[simp] theorem State.serveRead_rsp (s : State) (a : BitVec 7) :
    (s.serveRead a).rsp = some { rdata := s.windowRead a, err := false } := rfl
@[simp] theorem State.serveRead_inputs (s : State) (a : BitVec 7) :
    (s.serveRead a).inputs = s.inputs := rfl
@[simp] theorem State.serveRead_modelFaults (s : State) (a : BitVec 7) :
    (s.serveRead a).modelFaults = (s.noteReads (slotReads (slotOf a))).modelFaults := rfl
@[simp] theorem State.serveRead_freeCount (s : State) (a : BitVec 7) :
    (s.serveRead a).freeCount = s.freeCount := rfl

/-! ### `dropWrite` -/

@[simp] theorem State.dropWrite_regs (s : State) :
    (s.dropWrite).regs = s.regs := rfl
@[simp] theorem State.dropWrite_written (s : State) :
    (s.dropWrite).written = s.written := rfl
@[simp] theorem State.dropWrite_lastCmd (s : State) :
    (s.dropWrite).lastCmd = s.lastCmd := rfl
@[simp] theorem State.dropWrite_status (s : State) :
    (s.dropWrite).status = s.status.overran := rfl
@[simp] theorem State.dropWrite_irqEn (s : State) :
    (s.dropWrite).irqEn = s.irqEn := rfl
@[simp] theorem State.dropWrite_pending (s : State) :
    (s.dropWrite).pending = s.pending := rfl
@[simp] theorem State.dropWrite_rst (s : State) :
    (s.dropWrite).rst = s.rst := rfl
@[simp] theorem State.dropWrite_rsp (s : State) :
    (s.dropWrite).rsp = s.rsp := rfl
@[simp] theorem State.dropWrite_inputs (s : State) :
    (s.dropWrite).inputs = s.inputs := rfl
@[simp] theorem State.dropWrite_modelFaults (s : State) :
    (s.dropWrite).modelFaults = s.modelFaults := rfl
@[simp] theorem State.dropWrite_freeCount (s : State) :
    (s.dropWrite).freeCount = s.freeCount := rfl

/-! ### `respondToWrite` -/

@[simp] theorem State.respondToWrite_regs (s : State) :
    (s.respondToWrite).regs = s.regs := rfl
@[simp] theorem State.respondToWrite_written (s : State) :
    (s.respondToWrite).written = s.written := rfl
@[simp] theorem State.respondToWrite_lastCmd (s : State) :
    (s.respondToWrite).lastCmd = s.lastCmd := rfl
@[simp] theorem State.respondToWrite_status (s : State) :
    (s.respondToWrite).status = s.status := rfl
@[simp] theorem State.respondToWrite_irqEn (s : State) :
    (s.respondToWrite).irqEn = s.irqEn := rfl
@[simp] theorem State.respondToWrite_pending (s : State) :
    (s.respondToWrite).pending = s.pending := rfl
@[simp] theorem State.respondToWrite_rst (s : State) :
    (s.respondToWrite).rst = s.rst := rfl
@[simp] theorem State.respondToWrite_rsp (s : State) :
    (s.respondToWrite).rsp = some { rdata := Config.writeReadData s.freeCount, err := false } := rfl
@[simp] theorem State.respondToWrite_inputs (s : State) :
    (s.respondToWrite).inputs = s.inputs := rfl
@[simp] theorem State.respondToWrite_modelFaults (s : State) :
    (s.respondToWrite).modelFaults = s.modelFaults := rfl
@[simp] theorem State.respondToWrite_freeCount (s : State) :
    (s.respondToWrite).freeCount = s.freeCount + 1 := rfl

/-! ### `takeEvent` -/

@[simp] theorem State.takeEvent_regs (s : State) :
    (s.takeEvent).regs = s.regs := rfl
@[simp] theorem State.takeEvent_written (s : State) :
    (s.takeEvent).written = s.written := rfl
@[simp] theorem State.takeEvent_lastCmd (s : State) :
    (s.takeEvent).lastCmd = s.lastCmd := rfl
@[simp] theorem State.takeEvent_status (s : State) :
    (s.takeEvent).status = s.status := rfl
@[simp] theorem State.takeEvent_irqEn (s : State) :
    (s.takeEvent).irqEn = s.irqEn := rfl
@[simp] theorem State.takeEvent_pending (s : State) :
    (s.takeEvent).pending = s.pending := rfl
@[simp] theorem State.takeEvent_rst (s : State) :
    (s.takeEvent).rst = s.rst := rfl
@[simp] theorem State.takeEvent_rsp (s : State) :
    (s.takeEvent).rsp = none := rfl
@[simp] theorem State.takeEvent_inputs (s : State) :
    (s.takeEvent).inputs = s.inputs.tail := rfl
@[simp] theorem State.takeEvent_modelFaults (s : State) :
    (s.takeEvent).modelFaults = s.modelFaults := rfl
@[simp] theorem State.takeEvent_freeCount (s : State) :
    (s.takeEvent).freeCount = s.freeCount := rfl

/-! ### STATUS -/

@[simp] theorem Status.accepted_busy (st : Status) : (st.accepted).busy = true := rfl
@[simp] theorem Status.accepted_done (st : Status) : (st.accepted).done = false := rfl
@[simp] theorem Status.accepted_err (st : Status) : (st.accepted).err = false := rfl
@[simp] theorem Status.accepted_zero (st : Status) : (st.accepted).zero = false := rfl
@[simp] theorem Status.accepted_one (st : Status) : (st.accepted).one = false := rfl
@[simp] theorem Status.accepted_errCode (st : Status) : (st.accepted).errCode = .noError := rfl
@[simp] theorem Status.accepted_overrun (st : Status) : (st.accepted).overrun = st.overrun := rfl

@[simp] theorem Status.succeeded_busy (st : Status) (z : Int) : (st.succeeded z).busy = false := rfl
@[simp] theorem Status.succeeded_done (st : Status) (z : Int) : (st.succeeded z).done = true := rfl
@[simp] theorem Status.succeeded_err (st : Status) (z : Int) : (st.succeeded z).err = false := rfl
@[simp] theorem Status.succeeded_zero (st : Status) (z : Int) : (st.succeeded z).zero = zeroFlag z := rfl
@[simp] theorem Status.succeeded_one (st : Status) (z : Int) : (st.succeeded z).one = oneFlag z := rfl
@[simp] theorem Status.succeeded_errCode (st : Status) (z : Int) : (st.succeeded z).errCode = .noError := rfl
@[simp] theorem Status.succeeded_overrun (st : Status) (z : Int) : (st.succeeded z).overrun = st.overrun := rfl

@[simp] theorem Status.failed_busy (st : Status) (c : ErrCode) : (st.failed c).busy = false := rfl
@[simp] theorem Status.failed_done (st : Status) (c : ErrCode) : (st.failed c).done = true := rfl
@[simp] theorem Status.failed_err (st : Status) (c : ErrCode) : (st.failed c).err = true := rfl
@[simp] theorem Status.failed_zero (st : Status) (c : ErrCode) : (st.failed c).zero = false := rfl
@[simp] theorem Status.failed_one (st : Status) (c : ErrCode) : (st.failed c).one = false := rfl
@[simp] theorem Status.failed_errCode (st : Status) (c : ErrCode) : (st.failed c).errCode = c := rfl
@[simp] theorem Status.failed_overrun (st : Status) (c : ErrCode) : (st.failed c).overrun = st.overrun := rfl

@[simp] theorem Status.overran_busy (st : Status) : (st.overran).busy = st.busy := rfl
@[simp] theorem Status.overran_done (st : Status) : (st.overran).done = st.done := rfl
@[simp] theorem Status.overran_err (st : Status) : (st.overran).err = st.err := rfl
@[simp] theorem Status.overran_zero (st : Status) : (st.overran).zero = st.zero := rfl
@[simp] theorem Status.overran_one (st : Status) : (st.overran).one = st.one := rfl
@[simp] theorem Status.overran_errCode (st : Status) : (st.overran).errCode = st.errCode := rfl
@[simp] theorem Status.overran_overrun (st : Status) : (st.overran).overrun = true := rfl

@[simp] theorem Status.hostWrite_busy (st : Status) (v : Word) : (st.hostWrite v).busy = st.busy := rfl
@[simp] theorem Status.hostWrite_done (st : Status) (v : Word) : (st.hostWrite v).done = (st.done && !v.getLsbD 1) := rfl
@[simp] theorem Status.hostWrite_err (st : Status) (v : Word) : (st.hostWrite v).err = st.err := rfl
@[simp] theorem Status.hostWrite_zero (st : Status) (v : Word) : (st.hostWrite v).zero = st.zero := rfl
@[simp] theorem Status.hostWrite_one (st : Status) (v : Word) : (st.hostWrite v).one = st.one := rfl
@[simp] theorem Status.hostWrite_errCode (st : Status) (v : Word) : (st.hostWrite v).errCode = st.errCode := rfl
@[simp] theorem Status.hostWrite_overrun (st : Status) (v : Word) : (st.hostWrite v).overrun = (st.overrun && !v.getLsbD 16) := rfl

@[simp] theorem Status.reset_busy : Status.reset.busy = false := rfl
@[simp] theorem Status.reset_done : Status.reset.done = false := rfl
@[simp] theorem Status.reset_err : Status.reset.err = false := rfl
@[simp] theorem Status.reset_zero : Status.reset.zero = false := rfl
@[simp] theorem Status.reset_one : Status.reset.one = false := rfl
@[simp] theorem Status.reset_errCode : Status.reset.errCode = .noError := rfl
@[simp] theorem Status.reset_overrun : Status.reset.overrun = false := rfl

end Sys2Proof.Machine
end

