-- ==== Sys2Proof/Laws/Ops.lean ====
section
/-! SUPPORT. What each shared operation can do, said once: register reads after writes, commits, completions, host transactions
and steps. -/

namespace Sys2Proof.Machine

/-! ## Registers -/

theorem State.reg_writeReg (s : State) (k : Reg) (v : Word) (i : Reg) :
    (s.writeReg k v).reg i = if i = k then v else s.reg i := by
  by_cases h : i = k
  · subst h; simp [State.reg, Vector.get_eq_getElem]
  · have h' : k.val ≠ i.val := fun e => h (Fin.ext e.symm)
    simp [State.reg, Vector.get_eq_getElem, h, Vector.getElem_set_ne _ _ h']

theorem State.isWritten_writeReg (s : State) (k : Reg) (v : Word) (i : Reg) :
    (s.writeReg k v).isWritten i = if i = k then true else s.isWritten i := by
  by_cases h : i = k
  · subst h; simp [State.isWritten, Vector.get_eq_getElem]
  · have h' : k.val ≠ i.val := fun e => h (Fin.ext e.symm)
    simp [State.isWritten, Vector.get_eq_getElem, h, Vector.getElem_set_ne _ _ h']

/-- A register file is what its reads say. -/
theorem State.regs_ext {s t : State} (h : ∀ i, s.reg i = t.reg i) : s.regs = t.regs := by
  refine Vector.ext fun i hi => ?_
  simpa [State.reg, Vector.get_eq_getElem] using h ⟨i, hi⟩

/-- The poison bits are what their reads say. -/
theorem State.written_ext {s t : State} (h : ∀ i, s.isWritten i = t.isWritten i) : s.written = t.written := by
  refine Vector.ext fun i hi => ?_
  simpa [State.isWritten, Vector.get_eq_getElem] using h ⟨i, hi⟩

/-! ## Commits -/

/-- Everything a commit of register writes leaves unchanged. -/
theorem State.writeAll_frame (s : State) (ws : List (Reg × Word)) :
    (s.writeAll ws).lastCmd = s.lastCmd ∧ (s.writeAll ws).status = s.status ∧ (s.writeAll ws).irqEn = s.irqEn ∧
      (s.writeAll ws).pending = s.pending ∧ (s.writeAll ws).rst = s.rst ∧ (s.writeAll ws).rsp = s.rsp ∧
      (s.writeAll ws).inputs = s.inputs ∧ (s.writeAll ws).modelFaults = s.modelFaults ∧
      (s.writeAll ws).freeCount = s.freeCount := by
  induction ws generalizing s with
  | nil => simp [State.writeAll]
  | cons kv ws ih => simpa [State.writeAll] using ih (s.writeReg kv.1 kv.2)

@[simp] theorem State.writeAll_nil (s : State) : s.writeAll [] = s := rfl

@[simp] theorem State.writeAll_cons (s : State) (kv : Reg × Word) (ws : List (Reg × Word)) :
    s.writeAll (kv :: ws) = (s.writeReg kv.1 kv.2).writeAll ws := rfl

/-- A register that no write names keeps its value and its poison bit. -/
theorem State.writeAll_other (s : State) (ws : List (Reg × Word)) (i : Reg) (h : i ∉ ws.map Prod.fst) :
    (s.writeAll ws).reg i = s.reg i ∧ (s.writeAll ws).isWritten i = s.isWritten i := by
  induction ws generalizing s with
  | nil => exact ⟨rfl, rfl⟩
  | cons kv ws ih =>
    simp only [List.map_cons, List.mem_cons, not_or] at h
    have := ih (s.writeReg kv.1 kv.2) h.2
    simp only [State.writeAll_cons]
    rw [this.1, this.2, State.reg_writeReg, State.isWritten_writeReg]
    simp [h.1]

/-- A register that a write names is marked written. -/
theorem State.writeAll_written (s : State) (ws : List (Reg × Word)) (i : Reg) (h : i ∈ ws.map Prod.fst) :
    (s.writeAll ws).isWritten i = true := by
  induction ws generalizing s with
  | nil => simp at h
  | cons kv ws ih =>
    simp only [State.writeAll_cons]
    by_cases h' : i ∈ ws.map Prod.fst
    · exact ih _ h'
    · rw [(State.writeAll_other _ ws i h').2, State.isWritten_writeReg]
      have : i = kv.1 := by simpa [h'] using h
      simp [this]

/-- A commit whose destinations are distinct gives each its value (R108: the order does not matter). -/
theorem State.writeAll_value (s : State) (ws : List (Reg × Word)) (hd : (ws.map Prod.fst).Nodup) (k : Reg) (v : Word)
    (h : (k, v) ∈ ws) : (s.writeAll ws).reg k = v := by
  induction ws generalizing s with
  | nil => simp at h
  | cons kv ws ih =>
    simp only [List.map_cons, List.nodup_cons] at hd
    simp only [State.writeAll_cons]
    rcases List.mem_cons.1 h with e | h'
    · subst e
      rw [(State.writeAll_other _ ws k hd.1).1, State.reg_writeReg]
      simp
    · exact ih _ hd.2 h'

/-! ## Fields of a completed state -/

@[simp] theorem State.succeed_lastCmd (s : State) (ws : List (Reg × Word)) (z : Int) :
    (s.succeed ws z).lastCmd = s.lastCmd := (s.writeAll_frame ws).1
@[simp] theorem State.succeed_status (s : State) (ws : List (Reg × Word)) (z : Int) :
    (s.succeed ws z).status = s.status.succeeded z := rfl
@[simp] theorem State.succeed_irqEn (s : State) (ws : List (Reg × Word)) (z : Int) :
    (s.succeed ws z).irqEn = s.irqEn := (s.writeAll_frame ws).2.2.1
@[simp] theorem State.succeed_pending (s : State) (ws : List (Reg × Word)) (z : Int) :
    (s.succeed ws z).pending = none := rfl
@[simp] theorem State.succeed_rst (s : State) (ws : List (Reg × Word)) (z : Int) :
    (s.succeed ws z).rst = s.rst := (s.writeAll_frame ws).2.2.2.2.1
@[simp] theorem State.succeed_rsp (s : State) (ws : List (Reg × Word)) (z : Int) :
    (s.succeed ws z).rsp = s.rsp := (s.writeAll_frame ws).2.2.2.2.2.1
@[simp] theorem State.succeed_inputs (s : State) (ws : List (Reg × Word)) (z : Int) :
    (s.succeed ws z).inputs = s.inputs := (s.writeAll_frame ws).2.2.2.2.2.2.1
@[simp] theorem State.succeed_modelFaults (s : State) (ws : List (Reg × Word)) (z : Int) :
    (s.succeed ws z).modelFaults = s.modelFaults := (s.writeAll_frame ws).2.2.2.2.2.2.2.1
@[simp] theorem State.succeed_freeCount (s : State) (ws : List (Reg × Word)) (z : Int) :
    (s.succeed ws z).freeCount = s.freeCount := (s.writeAll_frame ws).2.2.2.2.2.2.2.2
@[simp] theorem State.succeed_reg (s : State) (ws : List (Reg × Word)) (z : Int) (i : Reg) :
    (s.succeed ws z).reg i = (s.writeAll ws).reg i := rfl
@[simp] theorem State.succeed_isWritten (s : State) (ws : List (Reg × Word)) (z : Int) (i : Reg) :
    (s.succeed ws z).isWritten i = (s.writeAll ws).isWritten i := rfl
@[simp] theorem State.fail_reg (s : State) (c : ErrCode) (i : Reg) : (s.fail c).reg i = s.reg i := rfl
@[simp] theorem State.fail_isWritten (s : State) (c : ErrCode) (i : Reg) :
    (s.fail c).isWritten i = s.isWritten i := rfl
@[simp] theorem State.complete_ok (s : State) (ws : List (Reg × Word)) (z : Int) :
    s.complete (.ok ws z) = s.succeed ws z := rfl
@[simp] theorem State.complete_err (s : State) (c : ErrCode) : s.complete (.err c) = s.fail c := rfl

/-- What a completion leaves unchanged, whatever the result (R110). -/
theorem State.complete_frame (s : State) (r : CmdResult) :
    (s.complete r).lastCmd = s.lastCmd ∧ (s.complete r).irqEn = s.irqEn ∧ (s.complete r).rst = s.rst ∧
      (s.complete r).rsp = s.rsp ∧ (s.complete r).inputs = s.inputs ∧
      (s.complete r).modelFaults = s.modelFaults ∧ (s.complete r).freeCount = s.freeCount ∧
      (s.complete r).status.overrun = s.status.overrun ∧ (s.complete r).pending = none ∧
      (s.complete r).status.busy = false ∧ (s.complete r).status.done = true := by
  cases r <;> simp

/-! ## The result of a decoded command -/

/-- The result `exec` of R103 gives for a command and captured operands; none where their number is not the command's. -/
def resultOf : Instr → List Word → Option CmdResult
  | .isprime rd _, [a] => some (isprimeResult rd a)
  | .gcd rd _ _, [a, b] => some (gcdResult rd a b)
  | .egcd rd rd2 rd3 _ _, [a, b] => some (egcdResult rd rd2 rd3 a b)
  | .modinv rd _ _, [a, b] => some (modinvResult rd a b)
  | .modpow rd _ _ _, [a, b, c] => some (modpowResult rd a b c)
  | .modpows rd _ _ _, [a, b, c] => some (modpowsResult rd a b c)
  | .modmul rd _ _ _, [a, b, c] => some (modmulResult rd a b c)
  | .modred rd _ _, [a, b] => some (modredResult rd a b)
  | _, _ => none

theorem completeOn1_of_ops (f : Word → CmdResult) {s : State} {a : Word} (h : s.pendingOps = some [a]) :
    completeOn1 f s = .next (s.complete (f a)) := by simp [completeOn1, h]

theorem completeOn2_of_ops (f : Word → Word → CmdResult) {s : State} {a b : Word} (h : s.pendingOps = some [a, b]) :
    completeOn2 f s = .next (s.complete (f a b)) := by simp [completeOn2, h]

theorem completeOn3_of_ops (f : Word → Word → Word → CmdResult) {s : State} {a b c : Word}
    (h : s.pendingOps = some [a, b, c]) : completeOn3 f s = .next (s.complete (f a b c)) := by
  simp [completeOn3, h]

theorem completeOn1_inv {f : Word → CmdResult} {s t : State} (h : completeOn1 f s = .next t) :
    ∃ a, s.pendingOps = some [a] ∧ t = s.complete (f a) := by
  unfold completeOn1 at h
  split at h
  · next a e => exact ⟨a, e, (Host.Outcome.next.inj h).symm⟩
  · cases h

theorem completeOn2_inv {f : Word → Word → CmdResult} {s t : State} (h : completeOn2 f s = .next t) :
    ∃ a b, s.pendingOps = some [a, b] ∧ t = s.complete (f a b) := by
  unfold completeOn2 at h
  split at h
  · next a b e => exact ⟨a, b, e, (Host.Outcome.next.inj h).symm⟩
  · cases h

theorem completeOn3_inv {f : Word → Word → Word → CmdResult} {s t : State} (h : completeOn3 f s = .next t) :
    ∃ a b c, s.pendingOps = some [a, b, c] ∧ t = s.complete (f a b c) := by
  unfold completeOn3 at h
  split at h
  · next a b c e => exact ⟨a, b, c, e, (Host.Outcome.next.inj h).symm⟩
  · cases h

/-- `exec` completes with the command's result when the pending record holds its operands. -/
theorem exec_of_result {i : Instr} {s : State} {ops : List Word} {r : CmdResult} (h : s.pendingOps = some ops)
    (hr : resultOf i ops = some r) : exec i s = .next (s.complete r) := by
  unfold resultOf at hr
  split at hr
  case h_9 => cases hr
  all_goals (
    cases hr
    first
      | exact completeOn1_of_ops _ h
      | exact completeOn2_of_ops _ h
      | exact completeOn3_of_ops _ h)

/-- Everything `exec` can do when it answers a next state. -/
theorem exec_inv {i : Instr} {s t : State} (h : exec i s = .next t) :
    ∃ ops r, s.pendingOps = some ops ∧ resultOf i ops = some r ∧ t = s.complete r := by
  cases i with
  | isprime rd rs1 => obtain ⟨a, e, rfl⟩ := completeOn1_inv h; exact ⟨_, _, e, rfl, rfl⟩
  | gcd rd rs1 rs2 => obtain ⟨a, b, e, rfl⟩ := completeOn2_inv h; exact ⟨_, _, e, rfl, rfl⟩
  | egcd rd rd2 rd3 rs1 rs2 => obtain ⟨a, b, e, rfl⟩ := completeOn2_inv h; exact ⟨_, _, e, rfl, rfl⟩
  | modinv rd rs1 rs2 => obtain ⟨a, b, e, rfl⟩ := completeOn2_inv h; exact ⟨_, _, e, rfl, rfl⟩
  | modpow rd rs1 rs2 rs3 => obtain ⟨a, b, c, e, rfl⟩ := completeOn3_inv h; exact ⟨_, _, e, rfl, rfl⟩
  | modpows rd rs1 rs2 rs3 => obtain ⟨a, b, c, e, rfl⟩ := completeOn3_inv h; exact ⟨_, _, e, rfl, rfl⟩
  | modmul rd rs1 rs2 rs3 => obtain ⟨a, b, c, e, rfl⟩ := completeOn3_inv h; exact ⟨_, _, e, rfl, rfl⟩
  | modred rd rs1 rs2 => obtain ⟨a, b, e, rfl⟩ := completeOn2_inv h; exact ⟨_, _, e, rfl, rfl⟩

/-- A command's result exists exactly when it has as many operands as the command has sources. -/
theorem resultOf_isSome (i : Instr) (ops : List Word) : (resultOf i ops).isSome = (ops.length == (sources i).length) := by
  cases i <;> rcases ops with _ | ⟨a, _ | ⟨b, _ | ⟨c, _ | ⟨d, ops⟩⟩⟩⟩ <;> rfl

/-- A successful result writes exactly the command's destinations, in order. -/
theorem resultOf_dests {i : Instr} {ops : List Word} {ws : List (Reg × Word)} {z : Int}
    (h : resultOf i ops = some (.ok ws z)) : ws.map Prod.fst = dests i := by
  unfold resultOf at h
  split at h
  case h_9 => cases h
  all_goals
    simp only [isprimeResult, gcdResult, egcdResult, modinvResult, modpowResult, modpowsResult, modmulResult, modredResult,
      Option.some.injEq] at h
    repeat' split at h
    all_goals (cases h <;> rfl)

/-! ## Engine and step -/

/-- Everything the completion step of a word can do (R102, R103). -/
theorem completeWord_inv {w : Word} {s t : State} (h : completeWord w s = .next t) :
    (∃ i ops r, decode w = .ok i ∧ s.pendingOps = some ops ∧ resultOf i ops = some r ∧ t = s.complete r) ∨
      ((∃ e, decode w = .error e) ∧ t = s.complete (.err .illegalCmd)) := by
  unfold completeWord at h
  split at h
  · next i e =>
    obtain ⟨ops, r, ho, hr, rfl⟩ := exec_inv h
    exact .inl ⟨i, ops, r, e, ho, hr, rfl⟩
  · next e he => exact .inr ⟨⟨e, he⟩, (Host.Outcome.next.inj h).symm⟩

/-- Everything an engine step can do (R102): nothing while IDLE, one step less to run, or the completion. -/
theorem engineStep_cases {s t : State} (h : engineStep s = .next t) :
    (s.pending = none ∧ t = s) ∨
      (∃ p, s.pending = some p ∧ 1 < p.left ∧ t = { s with pending := some { p with left := p.left - 1 } }) ∨
      (∃ p, s.pending = some p ∧ p.left ≤ 1 ∧ completeWord p.word s = .next t) := by
  unfold engineStep at h
  split at h
  · next e => exact .inl ⟨e, (Host.Outcome.next.inj h).symm⟩
  · next p e =>
    split at h
    · next hl => exact .inr (.inl ⟨p, e, hl, (Host.Outcome.next.inj h).symm⟩)
    · next hl => exact .inr (.inr ⟨p, e, by omega, h⟩)

/-- Everything a whole run of engine steps can do. -/
theorem engineRun_cases {s t : State} (h : engineRun s = .next t) :
    (s.pending = none ∧ t = s) ∨ (∃ p, s.pending = some p ∧ completeWord p.word s = .next t) := by
  unfold engineRun at h
  split at h
  · next e => exact .inl ⟨e, (Host.Outcome.next.inj h).symm⟩
  · next p e => exact .inr ⟨p, e, h⟩

/-- Everything a step can do when it answers a next state. -/
theorem step_cases {s t : State} (h : step s = .next t) :
    (∃ x, s.nextEvent = .host x ∧ t = s.takeEvent.serve x) ∨
      (s.nextEvent = .engine ∧ s.rst = true ∧ t = s.takeEvent) ∨
      (s.nextEvent = .engine ∧ s.rst = false ∧ engineStep s.takeEvent = .next t) ∨
      (s.nextEvent = .engineRun ∧ s.rst = true ∧ t = s.takeEvent) ∨
      (s.nextEvent = .engineRun ∧ s.rst = false ∧ engineRun s.takeEvent = .next t) ∨
      (s.nextEvent = .rstRise ∧ t = { s.takeEvent.resetState with rst := true }) ∨
      (s.nextEvent = .rstFall ∧ t = { s.takeEvent with rst := false }) := by
  unfold step runEvent at h
  split at h
  · next x e => exact .inl ⟨x, e, (Host.Outcome.next.inj h).symm⟩
  · cases h
  · next e =>
    split at h
    · next hr => exact .inr (.inl ⟨e, hr, (Host.Outcome.next.inj h).symm⟩)
    · next hr => exact .inr (.inr (.inl ⟨e, by simpa using hr, h⟩))
  · next e =>
    split at h
    · next hr => exact .inr (.inr (.inr (.inl ⟨e, hr, (Host.Outcome.next.inj h).symm⟩)))
    · next hr => exact .inr (.inr (.inr (.inr (.inl ⟨e, by simpa using hr, h⟩))))
  · next e => exact .inr (.inr (.inr (.inr (.inr (.inl ⟨e, (Host.Outcome.next.inj h).symm⟩)))))
  · next e => exact .inr (.inr (.inr (.inr (.inr (.inr ⟨e, (Host.Outcome.next.inj h).symm⟩)))))

/-- Everything a host transaction can do (R53 to R58, R230). -/
theorem State.serve_cases (s : State) (x : HostTxn) :
    ((s.rst = true ∨ x.legal = false) ∧ s.serve x = s.refuseTxn) ∨
      (s.rst = false ∧ x.legal = true ∧ x.we = false ∧ s.serve x = s.serveRead x.addr) ∨
      (s.rst = false ∧ x.legal = true ∧ x.we = true ∧ s.serve x = (s.applyWrite x.addr x.wdata).respondToWrite) := by
  unfold State.serve
  cases hr : s.rst <;> cases hl : x.legal <;> cases hw : x.we <;> simp

/-- Everything a legal write can do (R55 to R58). -/
theorem State.applyWrite_cases (s : State) (a : BitVec 7) (v : Word) :
    (∃ i, slotOf a = .data i ∧ s.status.busy = false ∧ s.applyWrite a v = s.writeReg i v) ∨
      (((∃ i, slotOf a = .data i) ∨ slotOf a = .cmd) ∧ s.status.busy = true ∧ s.applyWrite a v = s.dropWrite) ∨
      (slotOf a = .cmd ∧ s.status.busy = false ∧ s.applyWrite a v = s.accept v) ∨
      (slotOf a = .status ∧ s.applyWrite a v = { s with status := s.status.hostWrite v }) ∨
      (slotOf a = .ctrl ∧ s.applyWrite a v = { s with irqEn := v.getLsbD 0 }) ∨
      ((slotOf a = .ident ∨ slotOf a = .reserved) ∧ s.applyWrite a v = s) := by
  unfold State.applyWrite
  cases slotOf a <;> cases s.status.busy <;> simp

end Sys2Proof.Machine
end

