-- ==== Sys2Proof/Laws/Engine.lean ====
section
/-! SUPPORT. The event `engineRun` (log 6) is the engine steps of R102 in a row: nothing is lost by taking them at once. -/

namespace Sys2Proof.Machine

/-- k engine steps in a row. -/
def engineSteps : Nat → State → Host.Outcome State Fault Refusal
  | 0, s => .next s
  | k + 1, s =>
    match engineStep s with
    | .next t => engineSteps k t
    | .fault r => .fault r
    | .refused r => .refused r

theorem State.writeAll_set_pending (s : State) (q : Option Pending) (ws : List (Reg × Word)) :
    ({ s with pending := q } : State).writeAll ws = { s.writeAll ws with pending := q } := by
  induction ws generalizing s with
  | nil => rfl
  | cons kv ws ih => exact ih (s.writeReg kv.1 kv.2)

/-- A completion does not depend on the pending record it ends. -/
theorem State.complete_set_pending (s : State) (q : Option Pending) (r : CmdResult) :
    ({ s with pending := q } : State).complete r = s.complete r := by
  cases r with
  | ok ws z => simp [State.complete, State.succeed, State.writeAll_set_pending]
  | err c => rfl

/-- The completion step does not depend on how many steps the record says are left. -/
theorem completeWord_set_left (s : State) (p : Pending) (k : Nat) (h : s.pending = some p) (w : Word) :
    completeWord w { s with pending := some { p with left := k } } = completeWord w s := by
  have hops : ({ s with pending := some { p with left := k } } : State).pendingOps = s.pendingOps := by
    simp [State.pendingOps, h]
  unfold completeWord
  cases decode w with
  | error e => exact congrArg _ (State.complete_set_pending s _ _)
  | ok i =>
    cases i <;>
      simp only [exec, execIsprime, execGcd, execEgcd, execModinv, execModpow, execModpows, execModmul, execModred,
        completeOn1, completeOn2, completeOn3, hops, State.complete_set_pending]

/-- `engineRun` is `left` engine steps in a row (R102; log 6). -/
theorem engineSteps_eq_engineRun (s : State) (p : Pending) (h : s.pending = some p) (hl : 1 ≤ p.left) :
    engineSteps p.left s = engineRun s := by
  obtain ⟨n, hn⟩ : ∃ n, p.left = n + 1 := ⟨p.left - 1, by omega⟩
  induction n generalizing s p with
  | zero =>
    simp only [hn, engineSteps, engineStep, engineRun, h]
    cases completeWord p.word s <;> simp
  | succ n ih =>
    have hstep : engineStep s = .next { s with pending := some { p with left := n + 1 } } := by
      simp [engineStep, h, hn]
    have := ih { s with pending := some { p with left := n + 1 } } { p with left := n + 1 } rfl (by simp) rfl
    rw [hn, engineSteps, hstep]
    refine this.trans ?_
    simp only [engineRun, h]
    exact completeWord_set_left s p _ h _

end Sys2Proof.Machine
end

