-- ==== Sys2Proof/Laws/PerInstr.lean ====
section
/-! SUPPORT. Statements about every command as syntax, one lemma per constructor. -/

namespace Sys2Proof.Laws

/-- R108: a well-formed command names at least one destination and none twice, RD first. -/
def DestsDistinct.Statement (i : Instr) : Prop := i.wf = true → (Machine.dests i).Nodup ∧ Machine.dests i ≠ []

theorem DestsDistinct.isprime (rd rs1 : Reg) : DestsDistinct.Statement (.isprime rd rs1) :=
  fun _ => by simp [Machine.dests]

theorem DestsDistinct.gcd (rd rs1 rs2 : Reg) : DestsDistinct.Statement (.gcd rd rs1 rs2) :=
  fun _ => by simp [Machine.dests]

theorem DestsDistinct.egcd (rd rd2 rd3 rs1 rs2 : Reg) : DestsDistinct.Statement (.egcd rd rd2 rd3 rs1 rs2) := by
  intro h
  simp only [Instr.wf, Bool.and_eq_true, bne_iff_ne, ne_eq] at h
  obtain ⟨⟨h1, h2⟩, h3⟩ := h
  simp [Machine.dests, h1, h2, h3]

theorem DestsDistinct.modinv (rd rs1 rs2 : Reg) : DestsDistinct.Statement (.modinv rd rs1 rs2) :=
  fun _ => by simp [Machine.dests]

theorem DestsDistinct.modpow (rd rs1 rs2 rs3 : Reg) : DestsDistinct.Statement (.modpow rd rs1 rs2 rs3) :=
  fun _ => by simp [Machine.dests]

theorem DestsDistinct.modpows (rd rs1 rs2 rs3 : Reg) : DestsDistinct.Statement (.modpows rd rs1 rs2 rs3) :=
  fun _ => by simp [Machine.dests]

theorem DestsDistinct.modmul (rd rs1 rs2 rs3 : Reg) : DestsDistinct.Statement (.modmul rd rs1 rs2 rs3) :=
  fun _ => by simp [Machine.dests]

theorem DestsDistinct.modred (rd rs1 rs2 : Reg) : DestsDistinct.Statement (.modred rd rs1 rs2) :=
  fun _ => by simp [Machine.dests]

end Sys2Proof.Laws
end

