-- ==== Sys2Proof/Laws/Results.lean ====
section
/-! SUPPORT. What each command computes on captured operands (files 41 to 44 of spec/), one lemma per outcome, and how a pattern is
read and written as an integer. -/

namespace Sys2Proof.Machine

/-! ## Integers and patterns (R9) -/

/-- `sint` is the two's complement reading. -/
theorem sint_eq_toInt (v : Word) : sint v = v.toInt := by
  have h := BitVec.isLt v
  rw [sint, BitVec.toInt_eq_msb_cond, BitVec.msb_eq_getLsbD_last]
  split <;> simp_all

theorem sint_range (v : Word) : -(2 : Int) ^ 63 ≤ sint v ∧ sint v ≤ 2 ^ 63 - 1 := by
  have h1 := @BitVec.le_toInt 64 v
  have h2 := @BitVec.toInt_lt 64 v
  rw [sint_eq_toInt]
  constructor
  · simpa using h1
  · simp at h2; omega

/-- `enc` inverts `sint` on the representable range (R9). -/
theorem sint_enc {z : Int} (h1 : -(2 : Int) ^ 63 ≤ z) (h2 : z ≤ 2 ^ 63 - 1) : sint (enc z) = z := by
  rw [sint_eq_toInt, enc]
  exact BitVec.toInt_ofInt_eq_self (by decide) (by simpa using h1) (by simp at h2 ⊢; omega)

theorem enc_sint (v : Word) : enc (sint v) = v := by
  rw [sint_eq_toInt, enc, BitVec.ofInt_toInt]

/-! ## The commands -/

theorem isprimeResult_eq (rd : Reg) (a : Word) :
    isprimeResult rd a =
      .ok [(rd, enc (if 2 ≤ sint a ∧ primeByTrial (sint a).toNat = true then 1 else 0))]
        (if 2 ≤ sint a ∧ primeByTrial (sint a).toNat = true then 1 else 0) := by
  unfold isprimeResult
  by_cases h : sint a < 2
  · have : ¬ 2 ≤ sint a := by omega
    simp [h, this]
  · have : 2 ≤ sint a := by omega
    simp [h, this]

theorem gcdResult_ok (rd : Reg) {a b : Word} (ha : 0 ≤ sint a) (hb : 0 ≤ sint b) :
    gcdResult rd a b = .ok [(rd, enc (gcdOf (sint a).toNat (sint b).toNat))] (gcdOf (sint a).toNat (sint b).toNat) := by
  simp [gcdResult, not_lt.2 ha, not_lt.2 hb]

theorem gcdResult_domain (rd : Reg) {a b : Word} (h : sint a < 0 ∨ sint b < 0) : gcdResult rd a b = .err .domain := by
  unfold gcdResult; split
  · rfl
  · rw [if_pos (h.resolve_left ‹_›)]

theorem egcdResult_ok (rd rd2 rd3 : Reg) {a b : Word} (ha : 0 ≤ sint a) (hb : 0 ≤ sint b) :
    egcdResult rd rd2 rd3 a b =
      .ok [(rd, enc (egcd (sint a).toNat (sint b).toNat).1), (rd2, enc (egcd (sint a).toNat (sint b).toNat).2.1),
        (rd3, enc (egcd (sint a).toNat (sint b).toNat).2.2)] (egcd (sint a).toNat (sint b).toNat).1 := by
  simp [egcdResult, not_lt.2 ha, not_lt.2 hb]

theorem egcdResult_domain (rd rd2 rd3 : Reg) {a b : Word} (h : sint a < 0 ∨ sint b < 0) :
    egcdResult rd rd2 rd3 a b = .err .domain := by
  unfold egcdResult; split
  · rfl
  · rw [if_pos (h.resolve_left ‹_›)]

theorem modinvResult_ok (rd : Reg) {a m : Word} (ha : 0 ≤ sint a) (hm : 0 < sint m)
    (hg : (egcd (sint a).toNat (sint m).toNat).1 = 1) :
    modinvResult rd a m =
      .ok [(rd, enc ((egcd (sint a).toNat (sint m).toNat).2.1 % sint m))]
        ((egcd (sint a).toNat (sint m).toNat).2.1 % sint m) := by
  simp [modinvResult, not_lt.2 ha, not_le.2 hm, hg]

theorem modinvResult_notFound (rd : Reg) {a m : Word} (ha : 0 ≤ sint a) (hm : 0 < sint m)
    (hg : (egcd (sint a).toNat (sint m).toNat).1 ≠ 1) : modinvResult rd a m = .err .inverseNotFound := by
  simp [modinvResult, not_lt.2 ha, not_le.2 hm, hg]

theorem modinvResult_domain (rd : Reg) {a m : Word} (h : sint a < 0 ∨ sint m ≤ 0) :
    modinvResult rd a m = .err .domain := by
  unfold modinvResult; split
  · rfl
  · rw [if_pos (h.resolve_left ‹_›)]

theorem modpowResult_ok (rd : Reg) {b e m : Word} (hb : 0 ≤ sint b) (he : 0 ≤ sint e) (hm : 0 < sint m) :
    modpowResult rd b e m =
      .ok [(rd, enc (modpowOf (sint b).toNat (sint e).toNat (sint m).toNat))]
        (modpowOf (sint b).toNat (sint e).toNat (sint m).toNat) := by
  simp [modpowResult, not_lt.2 hb, not_lt.2 he, not_le.2 hm]

theorem modpowResult_domain (rd : Reg) {b e m : Word} (h : sint b < 0 ∨ sint e < 0 ∨ sint m ≤ 0) :
    modpowResult rd b e m = .err .domain := by
  unfold modpowResult
  split
  · rfl
  · split
    · rfl
    · rw [if_pos ((h.resolve_left ‹_›).resolve_left ‹_›)]

theorem modpowsResult_below (rd : Reg) {b e m : Word} (hb : 0 ≤ sint b) (he : 0 ≤ sint e) (hm : sint b < sint m) :
    modpowsResult rd b e m = modpowResult rd b e m := by
  have h : 0 < sint m := by omega
  simp [modpowsResult, not_lt.2 hb, not_lt.2 he, not_le.2 h, not_le.2 hm]

theorem modpowsResult_overflow (rd : Reg) {b e m : Word} (hb : 0 ≤ sint b) (he : 0 ≤ sint e) (hm : 0 < sint m)
    (h : sint m ≤ sint b) : modpowsResult rd b e m = .err .symbolOverflow := by
  simp [modpowsResult, not_lt.2 hb, not_lt.2 he, not_le.2 hm, h]

theorem modpowsResult_domain (rd : Reg) {b e m : Word} (h : sint b < 0 ∨ sint e < 0 ∨ sint m ≤ 0) :
    modpowsResult rd b e m = .err .domain := by
  unfold modpowsResult
  split
  · rfl
  · split
    · rfl
    · rw [if_pos ((h.resolve_left ‹_›).resolve_left ‹_›)]

theorem modmulResult_ok (rd : Reg) {a b m : Word} (ha : 0 ≤ sint a) (hb : 0 ≤ sint b) (hm : 0 < sint m) :
    modmulResult rd a b m =
      .ok [(rd, enc (mulmod (sint a).toNat (sint b).toNat (sint m).toNat))]
        (mulmod (sint a).toNat (sint b).toNat (sint m).toNat) := by
  simp [modmulResult, not_lt.2 ha, not_lt.2 hb, not_le.2 hm]

theorem modmulResult_domain (rd : Reg) {a b m : Word} (h : sint a < 0 ∨ sint b < 0 ∨ sint m ≤ 0) :
    modmulResult rd a b m = .err .domain := by
  unfold modmulResult
  split
  · rfl
  · split
    · rfl
    · rw [if_pos ((h.resolve_left ‹_›).resolve_left ‹_›)]

theorem modredResult_ok (rd : Reg) {a m : Word} (ha : 0 ≤ sint a) (hm : 0 < sint m) :
    modredResult rd a m = .ok [(rd, enc (sint a % sint m))] (sint a % sint m) := by
  simp [modredResult, not_lt.2 ha, not_le.2 hm]

theorem modredResult_domain (rd : Reg) {a m : Word} (h : sint a < 0 ∨ sint m ≤ 0) :
    modredResult rd a m = .err .domain := by
  unfold modredResult; split
  · rfl
  · rw [if_pos (h.resolve_left ‹_›)]

/-! ## Fuel (log 16): the loops run to their own end -/

/-- More fuel than b changes nothing: the loop of R130 ends by its own test. -/
theorem euclid_fuel {f b : Nat} (a : Nat) (h : b ≤ f) : euclid f a b = gcdOf a b := by
  unfold gcdOf
  suffices H : ∀ f g a b, b ≤ f → b ≤ g → euclid f a b = euclid g a b from H f b a b h le_rfl
  intro f
  induction f with
  | zero => intro g a b hf hg; obtain rfl : b = 0 := by omega
            cases g <;> simp [euclid]
  | succ f ih =>
    intro g a b hf hg
    by_cases hb : b = 0
    · subst hb; cases g <;> simp [euclid]
    · obtain ⟨g, rfl⟩ : ∃ k, g = k + 1 := ⟨g - 1, by omega⟩
      have := Nat.mod_lt a (Nat.pos_of_ne_zero hb)
      simp only [euclid, hb, if_false]
      exact ih g b (a % b) (by omega) (by omega)

/-- More fuel than b changes nothing in the recursion of R132. -/
theorem egcdRec_fuel {f b : Nat} (a : Nat) (h : b ≤ f) : egcdRec f a b = egcd a b := by
  unfold egcd
  suffices H : ∀ f g a b, b ≤ f → b ≤ g → egcdRec f a b = egcdRec g a b from H f b a b h le_rfl
  intro f
  induction f with
  | zero => intro g a b hf hg; obtain rfl : b = 0 := by omega
            cases g <;> simp [egcdRec]
  | succ f ih =>
    intro g a b hf hg
    by_cases hb : b = 0
    · subst hb; cases g <;> simp [egcdRec]
    · obtain ⟨g, rfl⟩ : ∃ k, g = k + 1 := ⟨g - 1, by omega⟩
      have := Nat.mod_lt a (Nat.pos_of_ne_zero hb)
      simp only [egcdRec, hb, if_false]
      rw [ih g b (a % b) (by omega) (by omega)]

/-- More fuel than e changes nothing: the loop of R150 ends by its own test. -/
theorem powLoop_fuel {f g e : Nat} (m base result : Nat) (hf : e ≤ f) (hg : e ≤ g) :
    powLoop f m e base result = powLoop g m e base result := by
  induction f generalizing g e base result with
  | zero => obtain rfl : e = 0 := by omega
            cases g <;> simp [powLoop]
  | succ f ih =>
    by_cases he : e = 0
    · subst he; cases g <;> simp [powLoop]
    · obtain ⟨g, rfl⟩ : ∃ k, g = k + 1 := ⟨g - 1, by omega⟩
      simp only [powLoop, he, if_false]
      exact ih _ _ (by omega) (by omega)

/-- Enough fuel for divisors from i on changes nothing: the loop of R120 ends by its own test. -/
theorem trialDivide_fuel {f g n i : Nat} (hi : 1 ≤ i) (hf : n < i + 2 * f) (hg : n < i + 2 * g) :
    trialDivide f n i = trialDivide g n i := by
  induction f generalizing g i with
  | zero =>
    have : ¬ i * i ≤ n := by
      have : i * 1 ≤ i * i := Nat.mul_le_mul_left i hi
      omega
    cases g <;> simp [trialDivide, this]
  | succ f ih =>
    by_cases h : i * i ≤ n
    · obtain ⟨g, rfl⟩ : ∃ k, g = k + 1 := ⟨g - 1, by
        have : i * 1 ≤ i * i := Nat.mul_le_mul_left i hi
        omega⟩
      simp only [trialDivide, h, if_true]
      split
      · rfl
      · exact ih (by omega) (by omega) (by omega)
    · cases g <;> simp [trialDivide, h]

end Sys2Proof.Machine
end

