-- ==== Sys2Proof/Laws/Work.lean ====
section
/-! SUPPORT. The counted loops of Machine/Work.lean compute what the commands' own loops compute. -/

namespace Sys2Proof.Machine

theorem euclidCounted_result (f a b : Nat) : (euclidCounted f a b).1 = euclid f a b := by
  induction f generalizing a b with
  | zero => rfl
  | succ f ih => by_cases h : b = 0 <;> simp [euclidCounted, euclid, h, ih]

theorem trialDivideCounted_result (f n i : Nat) : (trialDivideCounted f n i).1 = trialDivide f n i := by
  induction f generalizing i with
  | zero => rfl
  | succ f ih =>
    by_cases h : i * i ≤ n
    · by_cases h' : n % i = 0 <;> simp [trialDivideCounted, trialDivide, h, h', ih]
    · simp [trialDivideCounted, trialDivide, h]

theorem powLoopCounted_result (f m e b r : Nat) : (powLoopCounted f m e b r).result = powLoop f m e b r := by
  induction f generalizing e b r with
  | zero => rfl
  | succ f ih => by_cases h : e = 0 <;> simp [powLoopCounted, powLoop, h, ih]

theorem modpowCounted_result (b e m : Nat) : (modpowCounted b e m).result = modpowOf b e m :=
  powLoopCounted_result _ _ _ _ _

end Sys2Proof.Machine
end

