-- ==== Sys2Proof/Machine/HostScript.lean ====
section
/-! DEFINITION. The host statements of 30_encoding.md R94 as the bus transactions they name. The host's own variables and
control flow are host software, outside the MEE (00_scope.md R4). -/

namespace Sys2Proof.Machine.HostScript

/-- The window offset of data register k (R52). -/
def dataOffset (k : Reg) : BitVec 7 := BitVec.ofNat 7 (8 * k.val)

/-- `WR rk, value` -/
def wr (k : Reg) (v : Word) : List Event := [.host (memWrite (dataOffset k) v)]

/-- `RD var, rk`: the value is the response -/
def rd (k : Reg) : List Event := [.host (memRead (dataOffset k))]

/-- `RDO var, off` -/
def rdo (off : BitVec 7) : List Event := [.host (memRead off)]

/-- `CMD <hex word>`: a raw word, legal or not -/
def cmdWord (w : Word) : List Event := [.host (memWrite 0x40#7 w)]

/-- `CMD <assembly>` -/
def cmd (i : Instr) : List Event := cmdWord (encode i)

/-- `WAIT`: polls of STATUS until BUSY is clear. A poll changes nothing (R54), so it is the engine's remaining steps and
the last poll (log 14). -/
def wait : List Event := [.engineRun, .host (memRead 0x48#7)]

/-- `ST var` -/
def st : List Event := [.host (memRead 0x48#7)]

/-- `WRS value` -/
def wrs (v : Word) : List Event := [.host (memWrite 0x48#7 v)]

/-- `WRC value` -/
def wrc (v : Word) : List Event := [.host (memWrite 0x50#7 v)]

end Sys2Proof.Machine.HostScript
end

