-- ==== Sys2Proof/Tests/Slice0.lean ====
section
/-! SUPPORT. Small tests of the model against the vectors of spec/95_test_vectors.md (their ids stand beside them), decoding
tests with words written out from the bit patterns of 30_encoding.md, and a witness for the hypotheses of every obligation. -/

namespace Sys2Proof.Tests

open Sys2Proof Sys2Proof.Machine

/-! ## Small states -/

/-- The reset state with the first registers written. -/
def loaded (vs : List Word) : State := State.reset.writeAll (([0, 1, 2, 3, 4, 5, 6, 7] : List Reg).zip vs)

/-- A state with these events waiting. -/
def queued (s : State) (es : List Event) : State := { s with inputs := es }

/-- A state in which word w was accepted on these operands, with `left` engine steps to run. -/
def busyWith (s : State) (w : Word) (ops : List Word) (left : Nat) : State :=
  { s with lastCmd := w, status := Status.reset.accepted, pending := some { word := w, ops := ops, left := left } }

/-- `ISPRIME r1, r0` pending on r0 = 97, k steps before its completion. -/
def busy97 (k : Nat) : State := busyWith (loaded [97]) 0x101 [97] k

/-- The state with `rst` held at 1. -/
def inReset : State := { State.reset with rst := true }

/-- The next state of an outcome. -/
def nextOf : Host.Outcome State Fault Refusal → Option State
  | .next t => some t
  | .fault _ => none
  | .refused _ => none

/-- The state after one step on event e. -/
def after (s : State) (e : Event) : Option State := nextOf (step (queued s [e]))

/-- What register k and STATUS read, and the poison bit of k, when command i completes on these operands, from reset. -/
def ends (i : Instr) (ops : List Word) (k : Reg) : Option (Bool × Word × Word) :=
  (nextOf (exec i (State.reset.pendingOn (encode i) ops))).map fun t => (t.isWritten k, t.reg k, t.status.word)

/-- What register k and STATUS read after the next step of a state in which word w was placed. -/
def placed (vs : List Word) (w : Nat) (k : Reg) : Option (Word × Word) :=
  (nextOf (step ((loaded vs).withFetchWord 64 w))).map fun t => (t.reg k, t.status.word)

theorem idle_inv (s : State) (hp : s.pending = none) (hs : s.status = Status.reset) (hr : s.rst = false) : s.Inv where
  busy_pending := by rw [hp, hs]; rfl
  busy_clear := by rw [hs]; decide
  err_code := by rw [hs]; rfl
  flags := by rw [hs]; decide
  pending_record := by simp [hp]
  code_raised := by rw [hs]; rfl
  held := by simp [hr]

theorem busy_inv (s : State) (p : Pending) (hp : s.pending = some p) (hs : s.status = Status.reset.accepted)
    (hw : p.word = s.lastCmd ∧ 1 ≤ p.left ∧ p.ops.length = (wordSources p.word).length) (hr : s.rst = false) :
    s.Inv where
  busy_pending := by rw [hp, hs]; rfl
  busy_clear := by rw [hs]; decide
  err_code := by rw [hs]; rfl
  flags := by rw [hs]; decide
  pending_record := by intro q hq; rw [hp] at hq; cases hq; exact hw
  code_raised := by rw [hs]; rfl
  held := by simp [hr]

theorem busy97_inv (es : List Event) (k : Nat) (hk : 1 ≤ k) : (queued (busy97 k) es).Inv :=
  busy_inv _ _ rfl rfl ⟨rfl, hk, (by decide : 1 = (wordSources 0x101).length)⟩ rfl

theorem inReset_inv (es : List Event) : (queued inReset es).Inv where
  busy_pending := rfl
  busy_clear := by intro h; cases h
  err_code := rfl
  flags := (by decide : ¬(false = true ∧ false = true) ∧ (false = true → false = false ∧ false = false))
  pending_record := by intro p h; cases h
  code_raised := rfl
  held := fun _ => ⟨rfl, rfl, rfl, rfl, rfl⟩

theorem reads_next (s : State) (off : BitVec 7) (h : off.toNat % 8 = 0) (hr : s.rst = false) :
    ReadsNext (queued s [.host (memRead off)]) off.toNat :=
  ⟨⟨_, rfl, rfl, rfl, rfl⟩, h, hr⟩

theorem writes_next (s : State) (off : BitVec 7) (v : Word) (h : off.toNat % 8 = 0) (hr : s.rst = false) :
    WritesNext (queued s [.host (memWrite off v)]) off.toNat v :=
  ⟨⟨_, rfl, rfl, rfl, rfl, rfl⟩, h, hr⟩

/-- An idle state after a completion: DONE = 1. -/
def doneState : State := { loaded [97] with status := { Status.reset with done := true } }

theorem doneState_inv (es : List Event) : (queued doneState es).Inv where
  busy_pending := rfl
  busy_clear := fun h => (by cases (h : false = true))
  err_code := rfl
  flags := (by decide : ¬(false = true ∧ false = true) ∧ (false = true → false = false ∧ false = false))
  pending_record := fun p h => (by cases (h : none = some p))
  code_raised := rfl
  held := fun h => (by cases (h : false = true))

/-! ## Well-formedness: the one ill-formed shape, in each of its three places (R86) -/

theorem test_wf_refuses_rd_eq_rd2 : (Instr.egcd 0 0 1 2 3).wf = false := by decide
theorem test_wf_refuses_rd_eq_rd3 : (Instr.egcd 0 1 0 2 3).wf = false := by decide
theorem test_wf_refuses_rd2_eq_rd3 : (Instr.egcd 0 1 1 2 3).wf = false := by decide
theorem test_wf_allows_source_as_destination : (Instr.egcd 0 1 2 0 1).wf = true := by decide

/-! ## Decoding: one word a command, its bits written from the patterns of R83 to R86 (fields from bit 27 down, then OP) -/

theorem test_decode_isprime : decode 0b0000_0000_0000_0101_0010_00000001#64 = .ok (.isprime 2 5) := by decide
theorem test_decode_gcd : decode 0b0000_0000_0111_0001_0110_00000010#64 = .ok (.gcd 6 1 7) := by decide
theorem test_decode_egcd : decode 0b0011_0100_0001_0010_0101_00000011#64 = .ok (.egcd 5 4 3 2 1) := by decide
theorem test_decode_modinv : decode 0b0000_0000_0010_0100_0001_00000100#64 = .ok (.modinv 1 4 2) := by decide
theorem test_decode_modpow : decode 0b0000_0110_0101_0100_0111_00000101#64 = .ok (.modpow 7 4 5 6) := by decide
theorem test_decode_modpows : decode 0b0000_0001_0010_0100_0000_00000110#64 = .ok (.modpows 0 4 2 1) := by decide
theorem test_decode_modmul : decode 0b0000_0111_0111_0111_0111_00000111#64 = .ok (.modmul 7 7 7 7) := by decide
theorem test_decode_modred : decode 0b0000_0000_0001_0000_0010_00001000#64 = .ok (.modred 2 0 1) := by decide

/-- WORD-1, 2, 3, 22: reserved opcodes. -/
theorem test_decode_reserved_opcodes :
    decode 0x0#64 = .error .opcode ∧ decode 0x9#64 = .error .opcode ∧ decode 0xFF#64 = .error .opcode ∧
      decode 0xFFFFFFFFFFFFFFFF#64 = .error .opcode := by decide

/-- WORD-5, 11, 13: fields the format does not use. -/
theorem test_decode_unused_fields :
    decode 0x00010101#64 = .error (.unusedField .f3) ∧ decode 0x00110208#64 = .error (.unusedField .f4) ∧
      decode 0x01210305#64 = .error (.unusedField .f5) := by decide

/-- WORD-6, 7, 14: fields that name no register; WORD-8, 9: reserved bits. -/
theorem test_decode_fields_and_reserved_bits :
    decode 0x0801#64 = .error (.registerField .f1) ∧ decode 0x8101#64 = .error (.registerField .f2) ∧
      decode 0x888805#64 = .error (.registerField .f1) ∧ decode 0x10000101#64 = .error .reservedBits ∧
      decode 0x8000000000000101#64 = .error .reservedBits := by decide

/-- WORD-18, 19, 20: equal EGCD destinations; WORD-17: a source may equal a destination. -/
theorem test_decode_egcd_destinations :
    decode 0x01032003#64 = .error .equalDestinations ∧ decode 0x01132003#64 = .error .equalDestinations ∧
      decode 0x00132003#64 = .error .equalDestinations ∧ decode 0x02110003#64 = .ok (.egcd 0 1 2 0 1) := by decide

/-- WORD-4, 16 through the table's word form; WORD-1 gives none; seven bytes hold no command (R80). -/
theorem test_decode_table_word :
    decodeTableWord 64 0x101 = some (.isprime 1 0) ∧ decodeTableWord 28 0x2143003 = some (.egcd 0 1 2 3 4) ∧
      decodeTableWord 64 0 = none ∧ decodeLanes [1, 1, 0, 0, 0, 0, 0] = none := by decide

/-- R92, R93: case, comments and blanks do not matter; ENC and DEC expand (the words of P3); a ninth register and a missing
operand are no assembly. -/
theorem test_assembler :
    (assembleLine "enc R1, r0, r4, r2 ; H".toList).map encode = some 0x00240106#64 ∧
      (assembleLine "DEC r0,r1,r6,r2".toList).map encode = some 0x00261005#64 ∧
      assembleLine "GCD r8, r0, r1".toList = none ∧ assembleLine "GCD r2, r0".toList = none := by decide

/-! ## The commands (the ids of 95_test_vectors.md; a failed command leaves its destination unwritten) -/

/-- ISP-18: the square of a prime, found at the inclusive bound. -/
theorem test_isprime_square : ends (.isprime 1 0) [121] 1 = some (true, 0, 0x0A) := by decide
/-- ISP-2, ISP-15. -/
theorem test_isprime_signs :
    ends (.isprime 1 0) [0xFFFFFFFFFFFFFFF9] 1 = some (true, 0, 0x0A) ∧
      ends (.isprime 1 0) [97] 1 = some (true, 1, 0x12) := by decide
/-- GCD-10: the worst case of Euclid's loop. -/
theorem test_gcd_fibonacci :
    ends (.gcd 2 0 1) [7540113804746346429, 4660046610375530309] 2 = some (true, 1, 0x12) := by decide +kernel
/-- GCD-1, GCD-15. -/
theorem test_gcd_zero_and_domain :
    ends (.gcd 2 0 1) [0, 0] 2 = some (true, 0, 0x0A) ∧
      ends (.gcd 2 0 1) [5, 0xFFFFFFFFFFFFFFFF] 2 = some (false, 0, 0x206) := by decide
/-- EGCD-18: the largest coefficients. -/
theorem test_egcd_fibonacci :
    ends (.egcd 2 3 4 0 1) [7540113804746346429, 4660046610375530309] 3 = some (true, 0x18B3C1D91E77DECD, 0x12) ∧
      ends (.egcd 2 3 4 0 1) [7540113804746346429, 4660046610375530309] 4 = some (true, 0xD807F2255E458788, 0x12) := by
  decide +kernel
/-- EGCD-6 and EGCD-1: which destination gets which of g, x, y. -/
theorem test_egcd_destinations :
    (nextOf (exec (.egcd 2 3 4 0 1) (State.reset.pendingOn 0x04310203 [240, 46]))).map
        (fun t => (t.reg 2, t.reg 3, t.reg 4)) = some (2, enc (-9), 47) ∧
      ends (.egcd 2 3 4 0 1) [0, 0] 3 = some (true, 1, 0x0A) := by decide
/-- INV-1, INV-5. -/
theorem test_modinv_values :
    ends (.modinv 2 0 1) [65537, 11200] 2 = some (true, 7873, 0x02) ∧
      ends (.modinv 2 0 1) [0, 1] 2 = some (true, 0, 0x0A) := by decide
/-- INV-11 (EX-2), INV-18: DOMAIN is checked first. -/
theorem test_modinv_errors :
    ends (.modinv 2 0 1) [4, 8] 2 = some (false, 0, 0x306) ∧
      ends (.modinv 2 0 1) [0xFFFFFFFFFFFFFFFD, 0] 2 = some (false, 0, 0x206) := by decide
/-- POW-20: the largest operands. -/
theorem test_modpow_largest :
    ends (.modpow 3 0 1 2) [9223372036854775807, 9223372036854775807, 9223372036854775783] 3 =
      some (true, 86762353606963200, 0x02) := by decide +kernel
/-- POW-5 (m = 1 gives 0), POW-22 (a negative exponent). -/
theorem test_modpow_corners :
    ends (.modpow 3 0 1 2) [0, 0, 1] 3 = some (true, 0, 0x0A) ∧
      ends (.modpow 3 0 1 2) [2, 0xFFFFFFFFFFFFFFFF, 5] 3 = some (false, 0, 0x206) := by decide
/-- POWS-3: base = modulus - 1 is accepted. -/
theorem test_modpows_largest_symbol : ends (.modpows 3 0 1 2) [11412, 65537, 11413] 3 = some (true, 11412, 0x02) := by
  decide +kernel
/-- POWS-7 (base = modulus), POWS-11 (DOMAIN first). -/
theorem test_modpows_errors :
    ends (.modpows 3 0 1 2) [11413, 65537, 11413] 3 = some (false, 0, 0x406) ∧
      ends (.modpows 3 0 1 2) [5, 0xFFFFFFFFFFFFFFFF, 3] 3 = some (false, 0, 0x206) := by decide
/-- MUL-3: the product is exact. -/
theorem test_modmul_exact :
    ends (.modmul 3 0 1 2) [9223372036854775807, 9223372036854775807, 9223372036854775783] 3 = some (true, 576, 0x02) := by
  decide
/-- MUL-8, MUL-14. -/
theorem test_modmul_one_and_domain :
    ends (.modmul 3 0 1 2) [6, 7, 41] 3 = some (true, 1, 0x12) ∧
      ends (.modmul 3 0 1 2) [2, 3, 0] 3 = some (false, 0, 0x206) := by decide
/-- RED-1. -/
theorem test_modred_value : ends (.modred 2 0 1) [11413, 11200] 2 = some (true, 213, 0x02) := by decide
/-- RED-11, RED-12. -/
theorem test_modred_domain :
    ends (.modred 2 0 1) [0xFFFFFFFFFFFFFFFB, 3] 2 = some (false, 0, 0x206) ∧
      ends (.modred 2 0 1) [5, 0] 2 = some (false, 0, 0x206) := by decide

/-- SAME-3, SAME-5, SAME-6, SAME-8: a register that is both source and destination, one step after the word is placed. -/
theorem test_same_register :
    placed [240, 46] 0x02110003 1 = some (enc (-9), 0x02) ∧ placed [3, 7] 0x00100005 0 = some (6, 0x02) ∧
      placed [3, 7] 0x00010104 1 = some (5, 0x02) ∧ placed [5] 0x6 0 = some (5, 0x406) := by decide

/-- R202: a placed word that is illegal completes with ILLEGAL_CMD (the EGCD row's bare match word names R0 three times). -/
theorem test_placed_illegal_word : placed [5] 0x3 0 = some (5, 0x106) := by decide

/-! ## The host port, one transaction each (HOST rows of 95_test_vectors.md) -/

/-- HOST-1, HOST-4, HOST-5, HOST-6: reads. -/
theorem test_host_reads :
    (after State.reset (.host (memRead 0x58))).bind State.rsp = some ⟨0x0000000100004D45, false⟩ ∧
      (after State.reset (.host (memRead 0x78))).bind State.rsp = some ⟨0, false⟩ ∧
      (after State.reset (.host (memRead 0x5C))).bind State.rsp = some ⟨0, true⟩ ∧
      (after State.reset (.host ⟨false, 0x58, 0x0F, 0⟩)).bind State.rsp = some ⟨0, true⟩ := by decide

/-- HOST-7: a narrow write changes no register; HOST-9: a legal one does. -/
theorem test_host_data_writes :
    (after State.reset (.host ⟨true, 0, 0x0F, 5⟩)).map (fun t => (t.reg 0, t.isWritten 0)) = some (0, false) ∧
      (after State.reset (.host (memWrite 0 0x61))).map (fun t => (t.reg 0, t.isWritten 0)) = some (0x61, true) := by
  decide

/-- HOST-8: a read of a register never written is recorded; HOST-10: of a written one it is not. -/
theorem test_host_unwritten_read :
    (after State.reset (.host (memRead 0))).map State.modelFaults = some [.unwrittenRead 0] ∧
      (after (loaded [0x61]) (.host (memRead 0))).map State.modelFaults = some [] := by decide

/-- HOST-11, HOST-13: CTRL takes bit 0 alone; ID ignores a write. -/
theorem test_host_ctrl_and_id_writes :
    (after State.reset (.host (memWrite 0x50 0xFFFFFFFFFFFFFFFF))).map (fun t => t.windowRead 0x50) = some 1 ∧
      (after State.reset (.host (memWrite 0x58 0))).map (fun t => t.windowRead 0x58) = some 0x0000000100004D45 := by
  decide

/-- HOST-15: acceptance of `ISPRIME r1, r0`. -/
theorem test_host_command_accepted :
    (after (loaded [0x61]) (.host (memWrite 0x40 0x101))).map
        (fun t => (t.status.word, t.lastCmd, t.pending.map Pending.ops)) = some (1, 0x101, some [0x61]) := by decide

/-- HOST-18, HOST-19: writes while BUSY are dropped. -/
theorem test_host_writes_dropped :
    (after (busy97 2) (.host (memWrite 0 5))).map (fun t => (t.reg 0, t.status.word)) = some (97, 0x10001) ∧
      (after (busy97 2) (.host (memWrite 0x40 0x202))).map (fun t => (t.lastCmd, t.status.word)) =
        some (0x101, 0x10001) := by decide

/-- HOST-21: the completion step, with IRQ_EN = 1 and OVERRUN = 1 from before. -/
theorem test_host_completion :
    (after { busy97 1 with irqEn := true, status := (busy97 1).status.overran } .engine).map
        (fun t => (t.reg 1, t.isWritten 1, t.status.word, t.irq)) = some (1, true, 0x10012, true) := by decide

/-- R210: the request to the platform's interrupt controller stands exactly while DONE and IRQ_EN are both 1. -/
theorem test_irq_request :
    State.irqRequest { doneState with irqEn := true } = some Config.irqLine ∧ doneState.irqRequest = none ∧
      State.irqRequest { State.reset with irqEn := true } = none := ⟨rfl, rfl, rfl⟩

/-- HOST-25, HOST-27, HOST-29: writes to STATUS. -/
theorem test_host_status_writes :
    (({ Status.reset with done := true, one := true, overrun := true } : Status).hostWrite 0x2).word = 0x10010 ∧
      (({ Status.reset with one := true, overrun := true } : Status).hostWrite 0x10000).word = 0x10 ∧
      (({ Status.reset with one := true } : Status).hostWrite 0xFFFFFFFFFFFFFFFF).word = 0x10 := by decide

/-- P5, run A and run B: a write of R0 after the completion lands, before it is dropped; r1 is of 97 in both. -/
theorem test_p5_both_runs :
    (nextOf (Sys2Proof.core.run 2 (queued (busy97 3) ([.engineRun] ++ HostScript.wr 0 91)))).map
        (fun t => (t.reg 0, t.reg 1, t.status.word)) = some (91, 1, 0x12) ∧
      (nextOf (Sys2Proof.core.run 2 (queued (busy97 3) (HostScript.wr 0 91 ++ [.engineRun])))).map
        (fun t => (t.reg 0, t.reg 1, t.status.word)) = some (97, 1, 0x10012) := by decide

/-- R230, R231: reset while BUSY with OVERRUN and IRQ_EN set, and a transaction while `rst` is 1. -/
theorem test_reset_while_busy :
    (after { busy97 1 with irqEn := true, status := (busy97 1).status.overran } .rstRise).map
        (fun t => ((t.rst, t.reg 0, t.isWritten 0), t.lastCmd, t.status.word, t.irqEn)) =
        some ((true, 97, false), 0, 0, false) ∧
      (after (busy97 1) .rstRise).bind State.pending = none ∧
      (after inReset (.host (memWrite 0x40 0x101))).map (fun t => (t.rsp, t.lastCmd)) = some (some ⟨0, true⟩, 0) := by
  decide

/-- R223: a second host is refused. -/
theorem test_second_host : after State.reset (.secondHost (memRead 0)) = none := by decide

/-! ## Work counts (R242) -/

/-- 90 Euclid steps for (F92, F91), 91 with the two swapped. -/
theorem test_euclid_steps :
    euclidSteps 7540113804746346429 4660046610375530309 = 90 ∧
      euclidSteps 4660046610375530309 7540113804746346429 = 91 := by decide +kernel

/-- 499, below the bound 500 of R242: odd divisors from 3 to 21, ten of them. -/
theorem test_trial_divisions : trialDivisions 499 = 10 := by decide

/-- Exponent 13 = 1101b: 4 rounds, 4 squarings and 3 products (R152). -/
theorem test_modpow_counts : modpowCounted 4 13 497 = ⟨445, 4, 7⟩ := by decide

/-! ## Witnesses: for each obligation with hypotheses, concrete values that meet all of them, one for each clause -/

theorem witness_EncodeThenDecodeIsIdentity : (Instr.egcd 7 6 5 7 7).wf = true ∧ (Instr.isprime 7 0).wf = true := by decide

theorem witness_DecodeThenEncodeIsIdentity :
    decode 0x0000000005677703#64 = .ok (.egcd 7 6 5 7 7) ∧ decode 0x0000000000777705#64 = .ok (.modpow 7 7 7 7) := by decide

theorem witness_DecodeAgreesWithOpcodeTable :
    (0x00777707#64 &&& Opcode.modmul.mask = Opcode.modmul.matchWord) ∧
      (0x02143003#64 &&& Opcode.egcd.mask = Opcode.egcd.matchWord) := by decide

/-- A state that meets the invariant and steps to a next state: a completion. -/
theorem witness_EveryStepKeepsInvariant : ∃ s t : State, s.Inv ∧ step s = .next t ∧ s.pending ≠ none :=
  ⟨queued (busy97 1) [.engine], _, busy97_inv _ 1 (by decide), rfl, by decide⟩

theorem witness_OnlyASecondHostStopsTheMachine :
    (∃ s : State, s.Inv ∧ ∀ x, s.nextEvent ≠ .secondHost x) ∧ ∃ (s : State) (x : HostTxn), s.Inv ∧ s.nextEvent = .secondHost x :=
  ⟨⟨queued (busy97 1) [], busy97_inv _ 1 (by decide), fun _ h => by cases h⟩,
    ⟨queued (busy97 1) [.secondHost (memRead 0)], _, busy97_inv _ 1 (by decide), rfl⟩⟩

theorem witness_ResetAbandonsThePendingCommand :
    ∃ s : State, s.nextEvent = .rstRise ∧ s.pending ≠ none ∧ s.status.overrun = true ∧ s.irqEn = true :=
  ⟨queued { busy97 1 with irqEn := true, status := (busy97 1).status.overran } [.rstRise], rfl, by decide, rfl, rfl⟩

theorem witness_NothingHappensWhileResetIsHeld :
    (∃ (s : State) (x : HostTxn), s.Inv ∧ s.rst = true ∧ s.nextEvent = .host x) ∧
      (∃ s : State, s.Inv ∧ s.rst = true ∧ s.nextEvent = .engine) ∧
      (∃ s : State, s.Inv ∧ s.rst = true ∧ s.nextEvent = .engineRun) ∧
      ∃ s : State, s.Inv ∧ s.rst = true ∧ s.nextEvent = .rstFall :=
  ⟨⟨queued inReset [.host (memWrite 0x40 1)], _, inReset_inv _, rfl, rfl⟩, ⟨queued inReset [], inReset_inv _, rfl, rfl⟩,
    ⟨queued inReset [.engineRun], inReset_inv _, rfl, rfl⟩, ⟨queued inReset [.rstFall], inReset_inv _, rfl, rfl⟩⟩

/-- A narrow access (seven lanes), and a misaligned one (offset 1). -/
theorem witness_IllegalAccessIsRefusedWithoutEffect :
    (∃ (s : State) (x : HostTxn), s.nextEvent = .host x ∧ x.be ≠ 0xFF ∧ x.addr.toNat % 8 = 0) ∧
      ∃ (s : State) (x : HostTxn), s.nextEvent = .host x ∧ x.be = 0xFF ∧ x.addr.toNat % 8 ≠ 0 :=
  ⟨⟨queued State.reset [.host ⟨true, 0x40, 0x7F, 1⟩], _, rfl, by decide, rfl⟩,
    ⟨queued State.reset [.host (memRead 1)], _, rfl, rfl, by decide⟩⟩

/-- Reads at the first and last data register, both written, at each control register, and at the two ends of the reserved
offsets. -/
theorem witness_ReadsReturnTheWindow :
    (∃ s : State, ReadsNext s (8 * (0 : Reg).val) ∧ s.isWritten 0 = true) ∧
      (∃ s : State, ReadsNext s (8 * (7 : Reg).val) ∧ s.isWritten 7 = true) ∧
      (∃ s : State, ReadsNext s 0x40 ∧ ∀ i : Reg, 0x40 = 8 * i.val → s.isWritten i = true) ∧
      (∃ s : State, ReadsNext s 0x48) ∧ (∃ s : State, ReadsNext s 0x50) ∧ (∃ s : State, ReadsNext s 0x58) ∧
      (∃ s : State, ReadsNext s 0x60) ∧
      ∃ s : State, ReadsNext s 0x78 ∧ ∀ i : Reg, 0x78 = 8 * i.val → s.isWritten i = true :=
  ⟨⟨_, reads_next (busy97 2) 0 rfl rfl, rfl⟩, ⟨_, reads_next (loaded [0, 1, 2, 3, 4, 5, 6, 7]) 0x38 rfl rfl, rfl⟩,
    ⟨_, reads_next (busy97 2) 0x40 rfl rfl, by decide⟩, ⟨_, reads_next (busy97 2) 0x48 rfl rfl⟩,
    ⟨_, reads_next State.reset 0x50 rfl rfl⟩, ⟨_, reads_next State.reset 0x58 rfl rfl⟩, ⟨_, reads_next State.reset 0x60 rfl rfl⟩,
    ⟨_, reads_next State.reset 0x78 rfl rfl, by decide⟩⟩

theorem witness_UnwrittenRegisterReadIsRecorded :
    ∃ s : State, ReadsNext s (8 * (7 : Reg).val) ∧ s.isWritten 7 = false := ⟨_, reads_next State.reset 0x38 rfl rfl, rfl⟩

theorem witness_DataWriteWhileIdleStores :
    ∃ s : State, WritesNext s (8 * (7 : Reg).val) 0xFFFFFFFFFFFFFFFF ∧ s.status.busy = false :=
  ⟨_, writes_next State.reset 0x38 _ rfl rfl, rfl⟩

/-- The last data register and CMD, the two ends of the range that is dropped. -/
theorem witness_WriteWhileBusyIsDropped :
    (∃ s : State, WritesNext s 0 5 ∧ s.status.busy = true) ∧ ∃ s : State, WritesNext s 0x40 0x202 ∧ s.status.busy = true :=
  ⟨⟨_, writes_next (busy97 2) 0 _ rfl rfl, rfl⟩, ⟨_, writes_next (busy97 2) 0x40 _ rfl rfl, rfl⟩⟩

theorem witness_ControlWritesActWhateverBusyHolds :
    (∃ s : State, WritesNext s 0x40 0x101 ∧ s.status.busy = false) ∧ (∃ s : State, WritesNext s 0x48 0x10002 ∧ s.status.busy = true) ∧
      (∃ s : State, WritesNext s 0x50 1 ∧ s.status.busy = true) ∧ ∃ s : State, WritesNext s 0x58 1 ∧ s.status.busy = true :=
  ⟨⟨_, writes_next (loaded [97]) 0x40 _ rfl rfl, rfl⟩, ⟨_, writes_next (busy97 2) 0x48 _ rfl rfl, rfl⟩,
    ⟨_, writes_next (busy97 2) 0x50 _ rfl rfl, rfl⟩, ⟨_, writes_next (busy97 2) 0x58 _ rfl rfl, rfl⟩⟩

theorem witness_ReservedOffsetsReadZeroAndIgnoreWrites :
    (∃ s : State, ReadsNext s 0x60) ∧ (∃ s : State, WritesNext s 0x68 1) ∧ (∃ s : State, ReadsNext s 0x70) ∧
      ∃ s : State, WritesNext s 0x78 1 :=
  ⟨⟨_, reads_next State.reset 0x60 rfl rfl⟩, ⟨_, writes_next State.reset 0x68 _ rfl rfl⟩,
    ⟨_, reads_next State.reset 0x70 rfl rfl⟩, ⟨_, writes_next State.reset 0x78 _ rfl rfl⟩⟩



theorem witness_WindowBytesAreLittleEndian : 15 < 16 ∧ 7 < 8 := by decide

/-- A legal word and an illegal one. -/
theorem witness_AcceptanceCapturesWordAndOperands :
    (∃ s : State, WritesNext s 0x40 0x210305 ∧ s.status.busy = false ∧ decode 0x210305#64 = .ok (.modpow 3 0 1 2)) ∧
      ∃ s : State, WritesNext s 0x40 0 ∧ s.status.busy = false ∧ decode 0#64 = .error .opcode :=
  ⟨⟨_, writes_next (loaded [4, 13, 497]) 0x40 _ rfl rfl, rfl, by decide⟩, ⟨_, writes_next State.reset 0x40 _ rfl rfl, rfl, by decide⟩⟩

/-- A host transaction and an engine step, both with the command still pending afterwards. -/
theorem witness_PendingCommandIsFixedAtAcceptance :
    (∃ (s t : State) (p q : Pending) (x : HostTxn), s.Inv ∧ step s = .next t ∧ s.pending = some p ∧ t.pending = some q ∧
        s.nextEvent = .host x) ∧
      ∃ (s t : State) (p q : Pending), s.Inv ∧ step s = .next t ∧ s.pending = some p ∧ t.pending = some q ∧ q.left < p.left :=
  ⟨⟨queued (busy97 1) [.host (memWrite 0 5)], _, _, _, _, busy97_inv _ 1 (by decide), rfl, rfl, rfl, rfl⟩,
    ⟨queued (busy97 2) [.engine], _, _, _, busy97_inv _ 2 (by decide), rfl, rfl, rfl, by decide⟩⟩

theorem witness_IdleAndBusyChangeOnlyAsR100Says :
    (∃ s t : State, s.Inv ∧ step s = .next t ∧ s.status.busy = false ∧ t.status.busy = true) ∧
      ∃ s t : State, s.Inv ∧ step s = .next t ∧ s.status.busy = true ∧ t.status.busy = false :=
  ⟨⟨queued (loaded [97]) [.host (memWrite 0x40 0x101)], _, idle_inv _ rfl rfl rfl, rfl, rfl, rfl⟩,
    ⟨queued (busy97 1) [.rstRise], _, busy97_inv _ 1 (by decide), rfl, rfl, rfl⟩⟩

theorem witness_EngineStepBeforeCompletionIsInvisible :
    ∃ (s : State) (p : Pending), s.nextEvent = .engine ∧ s.rst = false ∧ s.pending = some p ∧ 1 < p.left :=
  ⟨queued (busy97 2) [], _, rfl, rfl, rfl, by decide⟩

theorem witness_LastEngineStepRunsTheDecodedCommand :
    ∃ (s : State) (p : Pending), s.nextEvent = .engine ∧ s.rst = false ∧ s.pending = some p ∧ p.left = 1 ∧
      decode p.word = .ok (.isprime 1 0) :=
  ⟨queued (busy97 1) [], _, rfl, rfl, rfl, rfl, (by decide : decode 0x101#64 = _)⟩

theorem witness_PlacedCommandRunsOnTheNextStep : (Instr.egcd 0 1 2 0 1).wf = true := by decide

theorem witness_IllegalWordCompletesWithIllegalCmd :
    ∃ (s : State) (p : Pending), s.Inv ∧ EngineNext s ∧ s.pending = some p ∧ (s.nextEvent = .engine → p.left = 1) ∧
      decode p.word = .error .opcode :=
  ⟨queued (busyWith State.reset 0x9 [] 1) [.engine], _,
    busy_inv _ _ rfl rfl ⟨rfl, by decide, (by decide : 0 = (wordSources 0x9).length)⟩ rfl, ⟨.inl rfl, rfl⟩, rfl, fun _ => rfl,
    (by decide : decode 0x9#64 = _)⟩

/-- A prime, a composite and a negative operand. -/
theorem witness_IsprimeDecidesPrimality :
    (∃ s : State, s.pendingOps = some [97] ∧ 0 ≤ sint 97 ∧ (sint 97).toNat.Prime) ∧
      (∃ s : State, s.pendingOps = some [91] ∧ ¬(sint 91).toNat.Prime) ∧
      ∃ s : State, s.pendingOps = some [0xFFFFFFFFFFFFFFF9] ∧ sint 0xFFFFFFFFFFFFFFF9 < 0 := by
  refine ⟨⟨State.reset.pendingOn 0x101 [97], rfl, by decide, ?_⟩, ⟨State.reset.pendingOn 0x101 [91], rfl, ?_⟩,
    ⟨State.reset.pendingOn 0x101 [0xFFFFFFFFFFFFFFF9], rfl, by decide⟩⟩
  · rw [show (sint 97).toNat = 97 by decide]; norm_num
  · rw [show (sint 91).toNat = 91 by decide]; norm_num

/-- Both operands at the least and at the greatest value of the domain. -/
theorem witness_GcdWritesTheGreatestCommonDivisor :
    (∃ s : State, s.pendingOps = some [0, 0] ∧ 0 ≤ sint 0) ∧
      ∃ s : State, s.pendingOps = some [0x7FFFFFFFFFFFFFFF, 0x7FFFFFFFFFFFFFFF] ∧ 0 ≤ sint 0x7FFFFFFFFFFFFFFF :=
  ⟨⟨State.reset.pendingOn 0x10202 [0, 0], rfl, by decide⟩, ⟨State.reset.pendingOn 0x10202 _, rfl, by decide⟩⟩

theorem witness_EgcdWritesBezoutCoefficients :
    ∃ s : State, (Instr.egcd 2 3 4 0 1).wf = true ∧ s.pendingOps = some [0, 0x7FFFFFFFFFFFFFFF] ∧ 0 ≤ sint 0 ∧
      0 ≤ sint 0x7FFFFFFFFFFFFFFF := ⟨State.reset.pendingOn 0x04310203 _, by decide, rfl, by decide, by decide⟩

/-- R133's worked example, one step in: 46 and 240 mod 46 = 10. -/
theorem witness_EgcdFollowsTheStandardRecursion : 0 < 46 ∧ egcd 46 (240 % 46) = (2, 2, -9) := by decide

theorem witness_EgcdCoefficientsAreBounded :
    9223372036854775807 ≤ 2 ^ 63 - 1 ∧ 0 ≤ 2 ^ 63 - 1 ∧ 0 < Nat.gcd 9223372036854775807 0 := by decide

/-- m = 1 and m > 1, each with gcd 1. -/
theorem witness_ModinvWritesTheUniqueInverse :
    (∃ s : State, s.pendingOps = some [0, 1] ∧ 0 ≤ sint 0 ∧ 0 < sint 1 ∧ Nat.gcd (sint 0).toNat (sint 1).toNat = 1 ∧ sint 1 = 1) ∧
      (∃ s : State, s.pendingOps = some [10, 7] ∧ 0 ≤ sint 10 ∧ 1 < sint 7 ∧ Nat.gcd (sint 10).toNat (sint 7).toNat = 1 ∧
        (sint 10 * 5) % sint 7 = 1 % sint 7) ∧
      ∃ u v : State, u.pendingOps = some [10, 7] ∧ exec (.egcd 2 3 4 0 1) u = .next v :=
  ⟨⟨State.reset.pendingOn 0x10204 _, rfl, by decide, by decide, by decide, by decide⟩,
    ⟨State.reset.pendingOn 0x10204 _, rfl, by decide, by decide, by decide, by decide⟩,
    ⟨State.reset.pendingOn 0x04310203 [10, 7], _, rfl, rfl⟩⟩

theorem witness_ModinvSignalsInverseNotFound :
    (∃ s : State, s.pendingOps = some [4, 8] ∧ 0 ≤ sint 4 ∧ 0 < sint 8 ∧ Nat.gcd (sint 4).toNat (sint 8).toNat ≠ 1) ∧
      ∃ s : State, s.pendingOps = some [0, 1] ∧ 0 ≤ sint 0 ∧ 0 < sint 1 ∧ Nat.gcd (sint 0).toNat (sint 1).toNat = 1 :=
  ⟨⟨State.reset.pendingOn 0x10204 _, rfl, by decide, by decide, by decide⟩,
    ⟨State.reset.pendingOn 0x10204 _, rfl, by decide, by decide, by decide⟩⟩

theorem witness_ModpowWritesThePowerModM :
    ∃ s : State, s.pendingOps = some [0, 0, 1] ∧ 0 ≤ sint 0 ∧ 0 < sint 1 :=
  ⟨State.reset.pendingOn 0x210305 _, rfl, by decide, by decide⟩

theorem witness_ModpowsWritesThePowerBelowModulus :
    ∃ s : State, s.pendingOps = some [11412, 65537, 11413] ∧ 0 ≤ sint 11412 ∧ 0 ≤ sint 65537 ∧ sint 11412 < sint 11413 :=
  ⟨State.reset.pendingOn 0x210306 _, rfl, by decide, by decide, by decide⟩

theorem witness_ModpowsSignalsSymbolOverflow :
    ∃ s : State, s.pendingOps = some [11413, 65537, 11413] ∧ 0 ≤ sint 11413 ∧ 0 ≤ sint 65537 ∧ 0 < sint 11413 ∧
      sint 11413 ≤ sint 11413 := ⟨State.reset.pendingOn 0x210306 _, rfl, by decide, by decide, by decide, by decide⟩

theorem witness_ModmulWritesTheExactProductModM :
    ∃ s : State, s.pendingOps = some [0x7FFFFFFFFFFFFFFF, 0, 1] ∧ 0 ≤ sint 0x7FFFFFFFFFFFFFFF ∧ 0 ≤ sint 0 ∧ 0 < sint 1 :=
  ⟨State.reset.pendingOn 0x210307 _, rfl, by decide, by decide, by decide⟩

/-- The hypotheses of all the clauses: 6 * 1 mod 4, its factors swapped, its factors reduced first, and the plain remainder. -/
theorem witness_ModmulLawsOfR166 :
    ∃ s t u v u' v' w w' x y : State, s.pendingOps = some [6, 1, 4] ∧ 0 ≤ sint 6 ∧ 0 ≤ sint 1 ∧ 0 < sint 4 ∧
      exec (.modmul 2 0 1 3) s = .next t ∧ u.pendingOps = some [1, 6, 4] ∧ exec (.modmul 2 0 1 3) u = .next v ∧
      x.pendingOps = some [6, 4] ∧ exec (.modred 2 0 1) x = .next u' ∧ y.pendingOps = some [1, 4] ∧
      exec (.modred 2 0 1) y = .next v' ∧ w.pendingOps = some [u'.reg 2, v'.reg 2, 4] ∧ exec (.modmul 2 0 1 3) w = .next w' ∧
      sint 1 = 1 :=
  ⟨State.reset.pendingOn 0x310207 [6, 1, 4], _, State.reset.pendingOn 0x310207 [1, 6, 4], _, _, _,
    State.reset.pendingOn 0x310207 _, _, State.reset.pendingOn 0x10208 [6, 4], State.reset.pendingOn 0x10208 [1, 4], rfl,
    by decide, by decide, by decide, rfl, rfl, rfl, rfl, rfl, rfl, rfl, rfl, rfl, by decide⟩

theorem witness_ModredWritesTheRemainder :
    ∃ s : State, s.pendingOps = some [0x7FFFFFFFFFFFFFFF, 1] ∧ 0 ≤ sint 0x7FFFFFFFFFFFFFFF ∧ 0 < sint 1 :=
  ⟨State.reset.pendingOn 0x10208 _, rfl, by decide, by decide⟩

/-- Operands outside the domain of each command that has one, and operands inside it. -/
theorem witness_DomainErrorsAreTheTableOfR203 :
    OutsideDomain (.gcd 2 0 1) [0xFFFFFFFFFFFFFFFF, 5] ∧ OutsideDomain (.egcd 2 3 4 0 1) [3, 0x8000000000000000] ∧
      OutsideDomain (.modinv 2 0 1) [3, 0] ∧ OutsideDomain (.modpow 3 0 1 2) [2, 0xFFFFFFFFFFFFFFFF, 5] ∧
      OutsideDomain (.modpows 3 0 1 2) [20000, 3, 0] ∧ OutsideDomain (.modmul 3 0 1 2) [2, 3, 0xFFFFFFFFFFFFFFFB] ∧
      OutsideDomain (.modred 2 0 1) [5, 0] ∧ ¬OutsideDomain (.modred 2 0 1) [0, 1] ∧
      (∃ s : State, s.pendingOps = some [5, 0] ∧ [(5 : Word), 0].length = (sources (.modred 2 0 1)).length) := by
  refine ⟨by simp only [OutsideDomain]; decide, by simp only [OutsideDomain]; decide, by simp only [OutsideDomain]; decide,
    by simp only [OutsideDomain]; decide, by simp only [OutsideDomain]; decide, by simp only [OutsideDomain]; decide,
    by simp only [OutsideDomain]; decide, by simp only [OutsideDomain]; decide, State.reset.pendingOn 0x10208 _, rfl, rfl⟩

/-- A pending word of each kind: illegal, outside the domain, too large a symbol, no inverse, and one that succeeds. -/
theorem witness_ErrorCodeFollowsThePriority :
    (∃ (s : State) (p : Pending), s.Inv ∧ EngineNext s ∧ s.pending = some p ∧ p.left = 1 ∧ decode p.word = .ok (.isprime 1 0)) ∧
      (decode 0x9#64 = .error .opcode ∧ OutsideDomain (.modpows 3 0 1 2) [5, 0xFFFFFFFFFFFFFFFF, 3] ∧
        ¬OutsideDomain (.modpows 3 0 1 2) [5, 0, 5] ∧ SymbolTooLarge (.modpows 3 0 1 2) [5, 0, 5] ∧
        ¬OutsideDomain (.modinv 2 0 1) [4, 8] ∧ HasNoInverse (.modinv 2 0 1) [4, 8] ∧
        ¬SymbolTooLarge (.modpows 3 0 1 2) [4, 0, 5] ∧ ¬HasNoInverse (.modinv 2 0 1) [0, 1]) := by
  refine ⟨⟨queued (busy97 1) [], _, busy97_inv _ 1 (by decide), ⟨.inl rfl, rfl⟩, rfl, rfl, (by decide : decode 0x101#64 = _)⟩,
    by decide, ?_⟩
  simp only [OutsideDomain, SymbolTooLarge, HasNoInverse]
  decide

/-- A step that leaves the command pending, and the one that ends it in an error. -/
theorem witness_ErrorsArePrecise :
    (∃ s t : State, s.Inv ∧ step s = .next t ∧ s.pending ≠ none ∧ t.pending ≠ none) ∧
      ∃ s t : State, s.Inv ∧ step s = .next t ∧ s.pending ≠ none ∧ t.status.err = true :=
  ⟨⟨queued (busy97 1) [.host (memWrite 0 5)], _, busy97_inv _ 1 (by decide), rfl, by decide, by decide⟩,
    queued (busyWith State.reset 0x10208 [5, 0] 1) [.engineRun], _,
    busy_inv _ _ rfl rfl ⟨rfl, by decide, (by decide : 2 = (wordSources 0x10208).length)⟩ rfl, rfl, by decide, by decide⟩

theorem witness_ModredIsModmulByOne :
    ∃ s u v v' : State, s.pendingOps = some [6, 4] ∧ u.pendingOps = some [6, enc 1, 4] ∧ v.pendingOps = some [6, 2, 4] ∧
      0 ≤ sint 6 ∧ 0 < sint 4 ∧ exec (.modpow 2 0 1 3) v = .next v' ∧ v'.status.err = false :=
  ⟨State.reset.pendingOn 0x10208 _, State.reset.pendingOn 0x310207 _, State.reset.pendingOn 0x310205 [6, 2, 4], _, rfl, rfl,
    rfl, by decide, by decide, rfl, by decide⟩

/-- The key of EX-4: p = 101, q = 113, e = 65537; the symbol 72 of EX-5. -/
theorem witness_EncryptThenDecryptIsIdentity :
    ∃ s1 s2 : State, Nat.Prime 101 ∧ Nat.Prime 113 ∧ (101 : Nat) ≠ 113 ∧ 101 * 113 ≤ 2 ^ 63 - 1 ∧ 65537 ≤ 2 ^ 63 - 1 ∧
      Nat.gcd 65537 ((101 - 1) * (113 - 1)) = 1 ∧ 72 < 101 * 113 ∧
      s1.pendingOps = some [enc (65537 : Nat), enc ((101 - 1) * (113 - 1) : Nat)] ∧
      s2.pendingOps = some [enc (72 : Nat), enc (65537 : Nat), enc (101 * 113 : Nat)] :=
  ⟨State.reset.pendingOn 0x34604 _, State.reset.pendingOn 0x240506 _, by norm_num, by norm_num, by decide, by decide, by decide,
    by decide, by decide, rfl, rfl⟩

/-- Two states that differ in their registers and hold the same operands. -/
theorem witness_ResultDependsOnOperandsAlone :
    ∃ s u s' : State, s.pendingOps = u.pendingOps ∧ exec (.gcd 2 0 1) s = .next s' ∧ s.reg 0 ≠ u.reg 0 ∧
      s'.status.err = false :=
  ⟨State.reset.pendingOn 0x10202 [12, 18], (loaded [5]).pendingOn 0x10202 [12, 18], _, rfl, rfl, by decide, by decide⟩

/-- A successful command, and EGCD with its coefficients. -/
theorem witness_ResultsAreNonNegative :
    (∃ s t : State, (Instr.gcd 2 0 1).wf = true ∧ exec (.gcd 2 0 1) s = .next t ∧ t.status.err = false ∧
        2 ∈ dests (.gcd 2 0 1)) ∧
      ∃ s t : State, (Instr.egcd 2 3 4 0 1).wf = true ∧ exec (.egcd 2 3 4 0 1) s = .next t ∧ t.status.err = false ∧
        3 ∈ dests (.egcd 2 3 4 0 1) :=
  ⟨⟨State.reset.pendingOn 0x10202 [12, 18], _, rfl, rfl, by decide, by decide⟩,
    ⟨State.reset.pendingOn 0x04310203 [240, 46], _, by decide, rfl, by decide, by decide⟩⟩

theorem witness_CommandsChangeOnlyDestinationsAndStatus :
    ∃ s t : State, exec (.gcd 2 0 1) s = .next t ∧ 3 ∉ dests (.gcd 2 0 1) ∧ 0 ∉ dests (.gcd 2 0 1) :=
  ⟨State.reset.pendingOn 0x10202 [12, 18], _, rfl, by decide, by decide⟩

/-- The byte before the destination's slot and the byte after it, and the bytes around STATUS. -/
theorem witness_CommandsChangeOnlyTheirWindowBytes :
    ∃ s t : State, exec (.gcd 2 0 1) s = .next t ∧
      ∀ off ∈ ([0x0F, 0x18, 0x47, 0x50] : List (BitVec 7)),
        (∀ k ∈ dests (.gcd 2 0 1), off.toNat / 8 ≠ k.val) ∧ off.toNat / 8 ≠ 9 :=
  ⟨State.reset.pendingOn 0x10202 [12, 18], _, rfl, by decide⟩

/-- A register changed by the host, and one changed by a commit. -/
theorem witness_OnlyTwoThingsWriteADataRegister :
    (∃ s t : State, step s = .next t ∧ t.reg 7 ≠ s.reg 7) ∧ ∃ s t : State, step s = .next t ∧ t.reg 1 ≠ s.reg 1 ∧ EngineNext s :=
  ⟨⟨queued State.reset [.host (memWrite 0x38 5)], _, rfl, by decide⟩,
    ⟨queued (busy97 1) [], _, rfl, by decide, .inl rfl, rfl⟩⟩

theorem witness_OverrunIsSetByDropsAndClearedByHostOrReset :
    (∃ s t : State, step s = .next t ∧ WritesNext s 0x40 0x202 ∧ s.status.busy = true ∧ s.status.overrun = false ∧
        t.status.overrun = true) ∧
      ∃ s t : State, step s = .next t ∧ s.status.overrun = true ∧ t.status.overrun = false :=
  ⟨⟨_, _, rfl, writes_next (busy97 2) 0x40 _ rfl rfl, rfl, rfl, rfl⟩,
    ⟨queued ((loaded []).dropWrite) [.host (memWrite 0x48 0x10000)], _, rfl, rfl, rfl⟩⟩

/-- A completion, a clear by the host, a clear by acceptance, and a reset. -/
theorem witness_DoneIsSetAndClearedAsR30Says :
    (∃ s t : State, s.Inv ∧ step s = .next t ∧ s.status.busy = true ∧ t.status.busy = false ∧ s.nextEvent ≠ .rstRise ∧
        s.status.done = false ∧ t.status.done = true) ∧
      (∃ s t : State, s.Inv ∧ step s = .next t ∧ WritesNext s 0x48 2) ∧
      (∃ s t : State, s.Inv ∧ step s = .next t ∧ WritesNext s 0x40 0x101 ∧ s.status.busy = false) ∧
      (∃ s t : State, s.Inv ∧ step s = .next t ∧ s.nextEvent = .rstRise) ∧
      ∃ s t : State, s.Inv ∧ step s = .next t ∧ s.status.done = true ∧ t.status.done = false :=
  ⟨⟨queued (busy97 1) [.engine], _, busy97_inv _ 1 (by decide), rfl, rfl, rfl, by simp [State.nextEvent, queued], rfl, rfl⟩,
    ⟨_, _, idle_inv _ rfl rfl rfl, rfl, writes_next State.reset 0x48 _ rfl rfl⟩,
    ⟨_, _, idle_inv _ rfl rfl rfl, rfl, writes_next (loaded [97]) 0x40 _ rfl rfl, rfl⟩,
    ⟨queued (busy97 1) [.rstRise], _, busy97_inv _ 1 (by decide), rfl, rfl⟩,
    ⟨queued doneState [.host (memWrite 0x48 2)], _, doneState_inv _, rfl, rfl, rfl⟩⟩

theorem witness_ConditionFieldsChangeOnlyAtAcceptanceAndCompletion :
    ∃ s t : State, s.Inv ∧ step s = .next t ∧ t.status.one ≠ s.status.one :=
  ⟨queued (busy97 1) [.engine], _, busy97_inv _ 1 (by decide), rfl, by decide⟩

theorem witness_LastcmdIsTheLastAcceptedWord :
    ∃ s t : State, step s = .next t ∧ WritesNext s 0x40 0xFFFFFFFFFFFFFFFF ∧ s.status.busy = false :=
  ⟨_, _, rfl, writes_next State.reset 0x40 _ rfl rfl, rfl⟩

/-- A completion, a write of CTRL, a write of STATUS and an acceptance while DONE = 1, and a dropped write. -/
theorem witness_InterruptFollowsDoneAndEnable :
    (∃ s t : State, s.Inv ∧ step s = .next t ∧ s.status.busy = true ∧ t.status.busy = false ∧ s.nextEvent ≠ .rstRise) ∧
      (∃ s t : State, s.Inv ∧ step s = .next t ∧ WritesNext s 0x50 1 ∧ s.status.done = true) ∧
      (∃ s t : State, s.Inv ∧ step s = .next t ∧ WritesNext s 0x48 2 ∧ s.status.done = true) ∧
      (∃ s t : State, s.Inv ∧ step s = .next t ∧ WritesNext s 0x40 0x101 ∧ s.status.busy = false ∧ s.status.done = true) ∧
      ∃ s t : State, s.Inv ∧ step s = .next t ∧ WritesNext s 0x40 0x101 ∧ s.status.busy = true :=
  ⟨⟨queued (busy97 1) [.engine], _, busy97_inv _ 1 (by decide), rfl, rfl, rfl, by simp [State.nextEvent, queued]⟩,
    ⟨_, _, doneState_inv _, rfl, writes_next doneState 0x50 _ rfl rfl, rfl⟩,
    ⟨_, _, doneState_inv _, rfl, writes_next doneState 0x48 _ rfl rfl, rfl⟩,
    ⟨_, _, doneState_inv _, rfl, writes_next doneState 0x40 _ rfl rfl, rfl, rfl⟩,
    ⟨_, _, busy97_inv _ 1 (by decide), rfl, writes_next (busy97 1) 0x40 _ rfl rfl, rfl⟩⟩

/-- A host read of an unwritten register, and the acceptance of a command that names one as a source. -/
theorem witness_UnwrittenReadsAreRecorded :
    (∃ s t : State, step s = .next t ∧ s.isWritten 7 = false ∧ ReadsNext s (8 * (7 : Reg).val)) ∧
      ∃ s t : State, step s = .next t ∧ s.isWritten 0 = false ∧ WritesNext s 0x40 0x101 ∧ s.status.busy = false ∧
        decode 0x101#64 = .ok (.isprime 1 0) ∧ 0 ∈ sources (.isprime 1 0) :=
  ⟨⟨_, _, rfl, rfl, reads_next State.reset 0x38 rfl rfl⟩,
    ⟨_, _, rfl, rfl, writes_next State.reset 0x40 _ rfl rfl, rfl, by decide, by decide⟩⟩

theorem witness_BusyMeeCompletes :
    ∃ (s : State) (p : Pending), s.Inv ∧ s.rst = false ∧ s.inputs = [] ∧ s.pending = some p :=
  ⟨queued (busy97 3) [], _, busy97_inv _ 3 (by decide), rfl, rfl, rfl⟩

/-- Two transactions that try to disturb: a write of the source and a second command. -/
theorem witness_HostCannotDisturbAPendingCommand :
    ∃ (s : State) (xs : List HostTxn), (Instr.isprime 1 0).wf = true ∧ s.Inv ∧ s.rst = false ∧ s.status.busy = false ∧
      s.inputs = .host (memWrite 0x40 (encode (.isprime 1 0))) :: (xs.map Event.host ++ [.engineRun]) ∧ xs.length = 2 :=
  ⟨queued (loaded [97]) [.host (memWrite 0x40 (encode (.isprime 1 0))), .host (memWrite 0 91), .host (memWrite 0x40 0x202),
      .engineRun], [memWrite 0 91, memWrite 0x40 0x202], rfl, idle_inv _ rfl rfl rfl, rfl, rfl, rfl, rfl⟩

theorem witness_ModpowRoundsAreBitLength : 0 < 9223372036854775807 ∧ 9223372036854775807 ≤ 2 ^ 63 - 1 ∧ 0 ≤ 2 ^ 63 - 1 := by
  decide

theorem witness_EuclidTakesFewerThan92Steps : 4660046610375530309 < 2 ^ 63 ∧ 7540113804746346429 < 2 ^ 63 := by decide


end Sys2Proof.Tests
end

/-! # Completions, and MODMUL on its domain -/

namespace Sys2Proof.Machine

/-! ## Successful completions -/

/-- A successful completion leaves alone what R110 lists. -/
theorem State.succeed_kept (s : State) (ws : List (Reg × Word)) (z : Int) : KeptByCompletion s (s.succeed ws z) := by
  constructor <;> simp

/-- With distinct destinations, `succeed` is the successful completion of R105. -/
theorem State.succeed_succeeded (s : State) {ws : List (Reg × Word)} (z : Int) (hd : (ws.map Prod.fst).Nodup) :
    Succeeded s (s.succeed ws z) ws z where
  values k v h := ⟨s.writeAll_value ws hd k v h, s.writeAll_written ws k (List.mem_map_of_mem h)⟩
  others k h := s.writeAll_other ws k h
  busy := rfl
  done := rfl
  err := rfl
  errCode := rfl
  zero := rfl
  one := rfl
  pending := rfl
  kept := s.succeed_kept ws z

/-- A command whose result on the captured operands is a success completes successfully with that result. -/
theorem exec_succeeds {i : Instr} {s : State} {ops : List Word} {ws : List (Reg × Word)} {z : Int}
    (h : s.pendingOps = some ops) (hr : resultOf i ops = some (.ok ws z)) (hd : (ws.map Prod.fst).Nodup) :
    ∃ t, exec i s = .next t ∧ Succeeded s t ws z :=
  ⟨_, exec_of_result h hr, s.succeed_succeeded z hd⟩

/-! ## Residues as patterns -/

/-- A residue modulo an operand is representable, so its pattern reads back as itself (R9). -/
theorem sint_enc_emod (z : Int) {m : Word} (hm : 0 < sint m) : sint (enc (z % sint m)) = z % sint m := by
  have hnonneg := Int.emod_nonneg z hm.ne'
  have hlt := Int.emod_lt_of_pos z hm
  have hmax := (sint_range m).2
  exact sint_enc (by omega) (by omega)

/-- `mulmod` of R12 on nonnegative integers is the remainder of their exact product. -/
theorem mulmod_toNat {a b m : Int} (ha : 0 ≤ a) (hb : 0 ≤ b) (hm : 0 ≤ m) :
    (mulmod a.toNat b.toNat m.toNat : Int) = a * b % m := by
  simp [mulmod, ha, hb, hm]

/-! ## MODMUL -/

/-- On its domain MODMUL gives the exact product mod m (R165). -/
theorem resultOf_modmul (rd rs1 rs2 rs3 : Reg) {a b m : Word} (ha : 0 ≤ sint a) (hb : 0 ≤ sint b) (hm : 0 < sint m) :
    resultOf (.modmul rd rs1 rs2 rs3) [a, b, m] =
      some (.ok [(rd, enc (sint a * sint b % sint m))] (sint a * sint b % sint m)) := by
  rw [← mulmod_toNat ha hb hm.le]
  exact congrArg some (modmulResult_ok rd ha hb hm)

/-- Settles O37: the result is the residue of the exact product, which is representable, so rd reads back as it. -/
theorem modmulWritesTheExactProductModM : Obligations.ModmulWritesTheExactProductModM := by
  intro rd rs1 rs2 rs3 s a b m hops ha hb hm
  obtain ⟨t, hexec, hsucc⟩ := exec_succeeds hops (resultOf_modmul rd rs1 rs2 rs3 ha hb hm) (List.nodup_singleton rd)
  obtain ⟨hreg, -⟩ := hsucc.values rd _ (List.mem_singleton_self _)
  exact ⟨t, hexec, hsucc, by rw [hreg, sint_enc_emod _ hm]⟩

end Sys2Proof.Machine

/-! # Everything a step can do -/

namespace Sys2Proof.Machine

/-! ## Fields of a completed state, whatever the result -/

@[simp] theorem State.complete_lastCmd (s : State) (r : CmdResult) : (s.complete r).lastCmd = s.lastCmd := by
  cases r <;> simp
@[simp] theorem State.complete_modelFaults (s : State) (r : CmdResult) :
    (s.complete r).modelFaults = s.modelFaults := by cases r <;> simp
@[simp] theorem State.complete_pending (s : State) (r : CmdResult) : (s.complete r).pending = none := by cases r <;> rfl
@[simp] theorem State.complete_irqEn (s : State) (r : CmdResult) : (s.complete r).irqEn = s.irqEn := by cases r <;> simp
@[simp] theorem State.complete_busy (s : State) (r : CmdResult) : (s.complete r).status.busy = false := by cases r <;> rfl
@[simp] theorem State.complete_done (s : State) (r : CmdResult) : (s.complete r).status.done = true := by cases r <;> rfl
@[simp] theorem State.complete_overrun (s : State) (r : CmdResult) :
    (s.complete r).status.overrun = s.status.overrun := by cases r <;> rfl

/-! ## Registers after the event is taken -/

@[simp] theorem State.takeEvent_reg (s : State) (k : Reg) : s.takeEvent.reg k = s.reg k := rfl
@[simp] theorem State.takeEvent_isWritten (s : State) (k : Reg) : s.takeEvent.isWritten k = s.isWritten k := rfl

/-! ## The window's slots and legal transactions (R52, R53) -/

theorem slotOf_eq_data {a : BitVec 7} {k : Reg} : slotOf a = .data k ↔ a.toNat / 8 = k.val := by
  have hk := k.isLt
  unfold slotOf
  split_ifs <;> simp [Fin.ext_iff] <;> omega

theorem slotOf_eq_cmd {a : BitVec 7} : slotOf a = .cmd ↔ a.toNat / 8 = 8 := by
  unfold slotOf
  split_ifs <;> simp <;> omega

theorem slotOf_eq_status {a : BitVec 7} : slotOf a = .status ↔ a.toNat / 8 = 9 := by
  unfold slotOf
  split_ifs <;> simp <;> omega

theorem slotOf_eq_ctrl {a : BitVec 7} : slotOf a = .ctrl ↔ a.toNat / 8 = 10 := by
  unfold slotOf
  split_ifs <;> simp <;> omega

/-- ID and the reserved offsets lie behind the other slots. -/
theorem le_toNat_of_slotOf_ignores {a : BitVec 7} (h : slotOf a = .ident ∨ slotOf a = .reserved) : 0x58 ≤ a.toNat := by
  unfold slotOf at h
  split_ifs at h <;> simp at h <;> omega

theorem HostTxn.legal_iff (x : HostTxn) : x.legal = true ↔ x.be = 0xFF ∧ x.addr.toNat % 8 = 0 := by
  simp [HostTxn.legal, ← BitVec.toNat_inj, BitVec.extractLsb'_toNat]

theorem ReadsNext.unique {s : State} {off off' : Nat} (h : ReadsNext s off) (h' : ReadsNext s off') : off = off' := by
  obtain ⟨⟨x, hx, -, -, rfl⟩, -, -⟩ := h
  obtain ⟨⟨y, hy, -, -, rfl⟩, -, -⟩ := h'
  cases hx.symm.trans hy
  rfl

theorem WritesNext.unique {s : State} {off off' : Nat} {v v' : Word} (h : WritesNext s off v)
    (h' : WritesNext s off' v') : off = off' ∧ v = v' := by
  obtain ⟨⟨x, hx, -, -, rfl, rfl⟩, -, -⟩ := h
  obtain ⟨⟨y, hy, -, -, rfl, rfl⟩, -, -⟩ := h'
  cases hx.symm.trans hy
  exact ⟨rfl, rfl⟩

theorem WritesNext.not_readsNext {s : State} {off off' : Nat} {v : Word} (h : WritesNext s off v) :
    ¬ReadsNext s off' := by
  rintro ⟨⟨y, hy, hwe', -, -⟩, -, -⟩
  obtain ⟨⟨x, hx, hwe, -, -, -⟩, -, -⟩ := h
  cases hx.symm.trans hy
  exact absurd hwe (by simp [hwe'])

/-! ## What the next event makes the step do (R54 to R58, R231) -/

theorem step_unique {s t u : State} (ht : step s = .next t) (hu : step s = .next u) : t = u :=
  Host.Outcome.next.inj (ht.symm.trans hu)

theorem step_of_host {s : State} {x : HostTxn} (h : s.nextEvent = .host x) :
    step s = .next (s.takeEvent.serve x) := by
  simp [step, runEvent, h]

theorem step_of_readsNext {s : State} {off : Nat} (h : ReadsNext s off) :
    ∃ a : BitVec 7, a.toNat = off ∧ step s = .next (s.takeEvent.serveRead a) := by
  obtain ⟨⟨x, hx, hwe, hbe, rfl⟩, hal, hr⟩ := h
  have hlegal := x.legal_iff.2 ⟨hbe, hal⟩
  exact ⟨x.addr, rfl, by rw [step_of_host hx]; simp [State.serve, hr, hlegal, hwe]⟩

theorem step_of_writesNext {s : State} {off : Nat} {v : Word} (h : WritesNext s off v) :
    ∃ a : BitVec 7, a.toNat = off ∧ step s = .next (s.takeEvent.applyWrite a v).respondToWrite := by
  obtain ⟨⟨x, hx, hwe, hbe, rfl, rfl⟩, hal, hr⟩ := h
  have hlegal := x.legal_iff.2 ⟨hbe, hal⟩
  exact ⟨x.addr, rfl, by rw [step_of_host hx]; simp [State.serve, hr, hlegal, hwe]⟩

/-- R56: the write is dropped. -/
theorem step_of_write_busy {s : State} {off : Nat} {v : Word} (h : WritesNext s off v) (hoff : off ≤ 0x40)
    (hb : s.status.busy = true) : step s = .next s.takeEvent.dropWrite.respondToWrite := by
  obtain ⟨a, ha, hs⟩ := step_of_writesNext h
  have hal := h.aligned
  rw [hs]
  by_cases hc : off = 0x40
  · have hslot : slotOf a = .cmd := slotOf_eq_cmd.2 (by omega)
    simp [State.applyWrite, hslot, hb]
  · have hslot : slotOf a = .data ⟨off / 8, by omega⟩ := slotOf_eq_data.2 (by simp [ha])
    simp [State.applyWrite, hslot, hb]

/-- R101: the word is accepted. -/
theorem step_of_write_cmd {s : State} {w : Word} (h : WritesNext s 0x40 w) (hb : s.status.busy = false) :
    step s = .next (s.takeEvent.accept w).respondToWrite := by
  obtain ⟨a, ha, hs⟩ := step_of_writesNext h
  have hslot : slotOf a = .cmd := slotOf_eq_cmd.2 (by omega)
  simp [hs, State.applyWrite, hslot, hb]

/-- R57: a write of STATUS. -/
theorem step_of_write_status {s : State} {v : Word} (h : WritesNext s 0x48 v) :
    step s = .next ({ s.takeEvent with status := s.status.hostWrite v } : State).respondToWrite := by
  obtain ⟨a, ha, hs⟩ := step_of_writesNext h
  have hslot : slotOf a = .status := slotOf_eq_status.2 (by omega)
  simp [hs, State.applyWrite, hslot]

/-- R57: a write of CTRL. -/
theorem step_of_write_ctrl {s : State} {v : Word} (h : WritesNext s 0x50 v) :
    step s = .next ({ s.takeEvent with irqEn := v.getLsbD 0 } : State).respondToWrite := by
  obtain ⟨a, ha, hs⟩ := step_of_writesNext h
  have hslot : slotOf a = .ctrl := slotOf_eq_ctrl.2 (by omega)
  simp [hs, State.applyWrite, hslot]

/-- R231: `rst` rises. -/
theorem step_of_rstRise {s : State} (h : s.nextEvent = .rstRise) :
    step s = .next { s.takeEvent.resetState with rst := true } := by
  simp [step, runEvent, h]

/-! ## The step, inverted -/

/-- The result with which a pending word completes on its captured operands (R103): its command's, or ILLEGAL_CMD (R202). -/
def WordResult (w : Word) (ops : List Word) (r : CmdResult) : Prop :=
  (∃ i, decode w = .ok i ∧ resultOf i ops = some r) ∨ ((∃ e, decode w = .error e) ∧ r = .err .illegalCmd)

/-- What the next step of `s` does, one constructor for each effect the rules name, with the event that causes it. -/
inductive StepEffect (s : State) : State → Prop
  /-- a transaction that is not legal, or comes while `rst` is 1 (R53, R230) -/
  | refuse {x : HostTxn} : s.nextEvent = .host x → s.rst = true ∨ x.legal = false → StepEffect s s.takeEvent.refuseTxn
  /-- a legal read (R54) -/
  | read {a : BitVec 7} : ReadsNext s a.toNat → StepEffect s (s.takeEvent.serveRead a)
  /-- a data register written while IDLE (R55) -/
  | store {k : Reg} {v : Word} : WritesNext s (8 * k.val) v → s.status.busy = false →
      StepEffect s (s.takeEvent.writeReg k v).respondToWrite
  /-- a data register or CMD written while BUSY (R56) -/
  | drop {off : Nat} {v : Word} : WritesNext s off v → off ≤ 0x40 → s.status.busy = true →
      StepEffect s s.takeEvent.dropWrite.respondToWrite
  /-- CMD written while IDLE (R101) -/
  | accept {w : Word} : WritesNext s 0x40 w → s.status.busy = false →
      StepEffect s (s.takeEvent.accept w).respondToWrite
  /-- STATUS written (R57) -/
  | writeStatus {v : Word} : WritesNext s 0x48 v →
      StepEffect s ({ s.takeEvent with status := s.status.hostWrite v } : State).respondToWrite
  /-- CTRL written (R57) -/
  | writeCtrl {v : Word} : WritesNext s 0x50 v →
      StepEffect s ({ s.takeEvent with irqEn := v.getLsbD 0 } : State).respondToWrite
  /-- ID or a reserved offset written (R57, R58) -/
  | ignore {off : Nat} {v : Word} : WritesNext s off v → 0x58 ≤ off → StepEffect s s.takeEvent.respondToWrite
  /-- an engine event while IDLE or while `rst` is 1 (R102, R230) -/
  | rest : s.nextEvent = .engine ∨ s.nextEvent = .engineRun → s.rst = true ∨ s.pending = none →
      StepEffect s s.takeEvent
  /-- an engine step that is not the last (R102) -/
  | tick {p : Pending} : s.nextEvent = .engine → s.rst = false → s.pending = some p → 1 < p.left →
      StepEffect s { s.takeEvent with pending := some { p with left := p.left - 1 } }
  /-- the completion (R102) -/
  | complete {p : Pending} {r : CmdResult} : EngineNext s → s.pending = some p →
      (s.nextEvent = .engine → p.left ≤ 1) → WordResult p.word p.ops r → StepEffect s (s.takeEvent.complete r)
  /-- `rst` rises (R231) -/
  | reset : s.nextEvent = .rstRise → StepEffect s { s.takeEvent.resetState with rst := true }
  /-- `rst` falls (R230) -/
  | release : s.nextEvent = .rstFall → StepEffect s { s.takeEvent with rst := false }

theorem stepEffect_of_write {s : State} {x : HostTxn} (hw : WritesNext s x.addr.toNat x.wdata) :
    StepEffect s (s.takeEvent.applyWrite x.addr x.wdata).respondToWrite := by
  have hal := hw.aligned
  obtain ⟨k, hs, hb, e⟩ | ⟨hs, hb, e⟩ | ⟨hs, hb, e⟩ | ⟨hs, e⟩ | ⟨hs, e⟩ | ⟨hs, e⟩ :=
    s.takeEvent.applyWrite_cases x.addr x.wdata <;> rw [e]
  · have := slotOf_eq_data.1 hs
    exact .store (by rwa [show 8 * k.val = x.addr.toNat by omega]) hb
  · refine .drop hw ?_ hb
    obtain ⟨k, hk⟩ | hc := hs
    · have := slotOf_eq_data.1 hk
      omega
    · have := slotOf_eq_cmd.1 hc
      omega
  · have := slotOf_eq_cmd.1 hs
    exact .accept (by rwa [show 0x40 = x.addr.toNat by omega]) hb
  · have := slotOf_eq_status.1 hs
    exact .writeStatus (by rwa [show 0x48 = x.addr.toNat by omega])
  · have := slotOf_eq_ctrl.1 hs
    exact .writeCtrl (by rwa [show 0x50 = x.addr.toNat by omega])
  · exact .ignore hw (le_toNat_of_slotOf_ignores hs)

theorem stepEffect_of_host {s : State} {x : HostTxn} (hx : s.nextEvent = .host x) :
    StepEffect s (s.takeEvent.serve x) := by
  obtain ⟨hg, e⟩ | ⟨hr, hl, hwe, e⟩ | ⟨hr, hl, hwe, e⟩ := s.takeEvent.serve_cases x <;> rw [e]
  · exact .refuse hx hg
  · obtain ⟨hbe, hal⟩ := x.legal_iff.1 hl
    exact .read ⟨⟨x, hx, hwe, hbe, rfl⟩, hal, hr⟩
  · obtain ⟨hbe, hal⟩ := x.legal_iff.1 hl
    exact stepEffect_of_write ⟨⟨x, hx, hwe, hbe, rfl, rfl⟩, hal, hr⟩

theorem stepEffect_of_completeWord {s t : State} {p : Pending} (he : EngineNext s) (hp : s.pending = some p)
    (hl : s.nextEvent = .engine → p.left ≤ 1) (h : completeWord p.word s.takeEvent = .next t) : StepEffect s t := by
  obtain ⟨i, ops, r, hi, hops, hr, rfl⟩ | ⟨hi, rfl⟩ := completeWord_inv h
  · obtain rfl : p.ops = ops := by simpa [State.pendingOps, hp] using hops
    exact .complete he hp hl (.inl ⟨i, hi, hr⟩)
  · exact .complete he hp hl (.inr ⟨hi, rfl⟩)

/-- A step that answers a next state has one of the effects the rules name. -/
theorem stepEffect_of_step {s t : State} (h : step s = .next t) : StepEffect s t := by
  obtain ⟨x, hx, rfl⟩ | ⟨hev, hr, rfl⟩ | ⟨hev, hr, h⟩ | ⟨hev, hr, rfl⟩ | ⟨hev, hr, h⟩ | ⟨hev, rfl⟩ | ⟨hev, rfl⟩ :=
    step_cases h
  · exact stepEffect_of_host hx
  · exact .rest (.inl hev) (.inl hr)
  · obtain ⟨hp, rfl⟩ | ⟨p, hp, hl, rfl⟩ | ⟨p, hp, hl, hc⟩ := engineStep_cases h
    · exact .rest (.inl hev) (.inr hp)
    · exact .tick hev hr hp hl
    · exact stepEffect_of_completeWord ⟨.inl hev, hr⟩ hp (fun _ => hl) hc
  · exact .rest (.inr hev) (.inl hr)
  · obtain ⟨hp, rfl⟩ | ⟨p, hp, hc⟩ := engineRun_cases h
    · exact .rest (.inr hev) (.inr hp)
    · exact stepEffect_of_completeWord ⟨.inr hev, hr⟩ hp (by simp [hev]) hc
  · exact .reset hev
  · exact .release hev

end Sys2Proof.Machine

/-! # What every step keeps -/

namespace Sys2Proof.Machine

/-! ## The codes a command can raise (R201, R207) -/

/-- Each command's error codes, from the outcomes of its own result. -/
theorem resultOf_err {i : Instr} {ops : List Word} {c : ErrCode} (h : resultOf i ops = some (.err c)) :
    (c = .domain ∧ i.opcode ≠ .isprime) ∨ (c = .inverseNotFound ∧ i.opcode = .modinv) ∨
      (c = .symbolOverflow ∧ i.opcode = .modpows) := by
  unfold resultOf at h
  split at h
  case h_9 => cases h
  all_goals
    simp only [isprimeResult, gcdResult, egcdResult, modinvResult, modpowResult, modpowsResult, modmulResult, modredResult,
      Option.some.injEq] at h
    split_ifs at h <;> cases h <;> simp [Instr.opcode]

/-- The code of an error completion is a code that the pending word can raise, and not NONE. -/
theorem WordResult.err_raised {w : Word} {ops : List Word} {c : ErrCode} (h : WordResult w ops (.err c)) :
    c.raisedBy w = true ∧ c ≠ .noError := by
  obtain ⟨i, hi, hr⟩ | ⟨⟨e, he⟩, hc⟩ := h
  · have ho : wordOpcode w = some i.opcode := by simp [wordOpcode, hi]
    obtain ⟨rfl, hop⟩ | ⟨rfl, hop⟩ | ⟨rfl, hop⟩ := resultOf_err hr <;> simp [ErrCode.raisedBy, ho, hop]
  · cases hc
    simp [ErrCode.raisedBy, wordOpcode, he]

/-- A successful completion writes the destinations of the pending command. -/
theorem WordResult.ok_dests {w : Word} {ops : List Word} {ws : List (Reg × Word)} {z : Int}
    (h : WordResult w ops (.ok ws z)) : ∃ i, decode w = .ok i ∧ ws.map Prod.fst = dests i := by
  obtain ⟨i, hi, hr⟩ | ⟨-, hc⟩ := h
  · exact ⟨i, hi, resultOf_dests hr⟩
  · cases hc

/-! ## The invariant, one lemma for each effect of a step -/

theorem State.Inv.busy_of_pending {s : State} (h : s.Inv) {p : Pending} (hp : s.pending = some p) :
    s.status.busy = true := by
  simp [h.busy_pending, hp]

/-- The invariant speaks of the state of the MEE alone. -/
theorem State.Inv.of_sameMee {s t : State} (h : s.Inv) (hst : SameMee s t) : t.Inv := by
  obtain ⟨-, hw, hl, hs, hi, hp, hr⟩ := hst
  constructor <;> simp only [hw, hl, hs, hi, hp, hr]
  exacts [h.busy_pending, h.busy_clear, h.err_code, h.flags, h.pending_record, h.code_raised, h.held]

theorem State.Inv.takeEvent {s : State} (h : s.Inv) : s.takeEvent.Inv :=
  h.of_sameMee ⟨rfl, rfl, rfl, rfl, rfl, rfl, rfl⟩

theorem State.Inv.respondToWrite {s : State} (h : s.Inv) : s.respondToWrite.Inv :=
  h.of_sameMee ⟨rfl, rfl, rfl, rfl, rfl, rfl, rfl⟩

/-- With no command pending and STATUS in reset, only the clause about a held reset is left. -/
theorem State.Inv.of_reset_status {s : State} (hs : s.status = Status.reset) (hp : s.pending = none)
    (held : s.rst = true → s.written = Vector.replicate 8 false ∧ s.lastCmd = 0 ∧ s.irqEn = false) : s.Inv where
  busy_pending := by simp [hs, hp]
  busy_clear := by simp [hs]
  err_code := by simp [hs]
  flags := by simp [hs]
  pending_record := by simp [hp]
  code_raised := by simp [hs, ErrCode.raisedBy]
  held hr := by
    obtain ⟨hw, hl, hi⟩ := held hr
    exact ⟨hw, hl, hs, hi, hp⟩

/-- Outside reset the invariant allows any change of the registers, the poison bits, CTRL and OVERRUN, and that DONE falls. -/
theorem State.Inv.of_running {s t : State} (h : s.Inv) (hr : t.rst = false) (hl : t.lastCmd = s.lastCmd)
    (hp : t.pending = s.pending) (d o : Bool)
    (hs : t.status = { s.status with done := s.status.done && d, overrun := o }) : t.Inv := by
  constructor <;> simp only [hl, hp, hs]
  · exact h.busy_pending
  · intro hb
    obtain ⟨hd, hrest⟩ := h.busy_clear hb
    exact ⟨by simp [hd], hrest⟩
  · exact h.err_code
  · exact h.flags
  · exact h.pending_record
  · exact h.code_raised
  · simp [hr]

theorem State.Inv.writeReg {s : State} (h : s.Inv) (hr : s.rst = false) (k : Reg) (v : Word) : (s.writeReg k v).Inv :=
  h.of_running hr rfl rfl true s.status.overrun (by simp)

theorem State.Inv.dropWrite {s : State} (h : s.Inv) (hr : s.rst = false) : s.dropWrite.Inv :=
  h.of_running hr rfl rfl true true (by simp [Status.overran])

theorem State.Inv.writeStatus {s : State} (h : s.Inv) (hr : s.rst = false) (v : Word) :
    State.Inv { s with status := s.status.hostWrite v } :=
  h.of_running hr rfl rfl _ _ rfl

theorem State.Inv.writeCtrl {s : State} (h : s.Inv) (hr : s.rst = false) (e : Bool) : State.Inv { s with irqEn := e } :=
  h.of_running hr rfl rfl true s.status.overrun (by simp)

theorem State.Inv.release {s : State} (h : s.Inv) : State.Inv { s with rst := false } :=
  h.of_running rfl rfl rfl true s.status.overrun (by simp)

theorem State.Inv.accept {s : State} (hr : s.rst = false) (w : Word) : (s.accept w).Inv where
  busy_pending := by simp
  busy_clear := by simp
  err_code := by simp
  flags := by simp
  pending_record p hp := by
    cases hp
    exact ⟨rfl, Nat.le_add_left _ _, List.length_map _⟩
  code_raised := by simp [ErrCode.raisedBy]
  held := by simp [hr]

theorem State.Inv.tick {s : State} (h : s.Inv) {p : Pending} (hp : s.pending = some p) (hl : 1 < p.left) :
    State.Inv { s with pending := some { p with left := p.left - 1 } } where
  busy_pending := h.busy_of_pending hp
  busy_clear := h.busy_clear
  err_code := h.err_code
  flags := h.flags
  pending_record q hq := by
    cases hq
    obtain ⟨hw, -, hops⟩ := h.pending_record p hp
    exact ⟨hw, Nat.le_sub_one_of_lt hl, hops⟩
  code_raised := h.code_raised
  held hr := by
    obtain ⟨-, -, -, -, hnone⟩ := h.held hr
    exact absurd hp (by simp [hnone])

theorem State.Inv.fail {s : State} (hr : s.rst = false) {c : ErrCode} (hc : c.raisedBy s.lastCmd = true)
    (hne : c ≠ .noError) : (s.fail c).Inv where
  busy_pending := rfl
  busy_clear := by simp
  err_code := by simp [hne]
  flags := by simp
  pending_record := by simp
  code_raised := hc
  held := by simp [hr]

theorem State.Inv.succeed {s : State} (hr : s.rst = false) (ws : List (Reg × Word)) (z : Int) :
    (s.succeed ws z).Inv where
  busy_pending := rfl
  busy_clear := by simp
  err_code := by simp
  flags := by simp [zeroFlag, oneFlag]; omega
  pending_record := by simp
  code_raised := by simp [ErrCode.raisedBy]
  held := by simp [hr]

theorem State.Inv.complete {s : State} (h : s.Inv) (hr : s.rst = false) {p : Pending} (hp : s.pending = some p)
    {r : CmdResult} (hres : WordResult p.word p.ops r) : (s.complete r).Inv := by
  cases r with
  | ok ws z => exact .succeed hr ws z
  | err c =>
    obtain ⟨hword, -, -⟩ := h.pending_record p hp
    obtain ⟨hc, hne⟩ := hres.err_raised
    exact .fail hr (hword ▸ hc) hne

/-- Settles O7: every effect a step can have keeps the invariant. -/
theorem everyStepKeepsInvariant : Obligations.EveryStepKeepsInvariant := by
  intro s t hinv hstep
  have h := hinv.takeEvent
  cases stepEffect_of_step hstep with
  | refuse | read => exact h.of_sameMee ⟨rfl, rfl, rfl, rfl, rfl, rfl, rfl⟩
  | store hw => exact (h.writeReg hw.running _ _).respondToWrite
  | drop hw => exact (h.dropWrite hw.running).respondToWrite
  | accept hw => exact (State.Inv.accept (s := s.takeEvent) hw.running _).respondToWrite
  | writeStatus hw => exact (h.writeStatus hw.running _).respondToWrite
  | writeCtrl hw => exact (h.writeCtrl hw.running _).respondToWrite
  | ignore => exact h.respondToWrite
  | rest => exact h
  | tick _ _ hp hl => exact h.tick hp hl
  | complete he hp _ hres => exact h.complete he.2 hp hres
  | reset => exact .of_reset_status rfl rfl fun _ => ⟨rfl, rfl, rfl⟩
  | release => exact h.release

end Sys2Proof.Machine

/-! # The state of the MEE (10_state.md) -/

namespace Sys2Proof.Machine

/-! ## Reset -/

/-- Settles O5: every field of the reset state is a constant. -/
theorem resetLeavesTheStateOfR41 : Obligations.ResetLeavesTheStateOfR41 :=
  ⟨by decide, rfl, by decide, rfl, rfl, rfl, rfl, rfl, rfl, rfl, rfl, rfl, rfl, rfl, rfl⟩

/-- Settles O6: STATUS is in reset and no command is pending. -/
theorem resetStateMeetsInvariant : Obligations.ResetStateMeetsInvariant :=
  .of_reset_status rfl rfl fun _ => ⟨rfl, rfl, rfl⟩

/-! ## The pending command and the data registers -/

/-- While BUSY a host transaction reaches neither the pending record nor a register nor LASTCMD (R56). -/
theorem State.serve_busy_frame {s : State} (hb : s.status.busy = true) (x : HostTxn) :
    (s.serve x).pending = s.pending ∧ (s.serve x).regs = s.regs ∧ (s.serve x).written = s.written ∧
      (s.serve x).lastCmd = s.lastCmd := by
  obtain ⟨-, e⟩ | ⟨-, -, -, e⟩ | ⟨-, -, -, e⟩ := s.serve_cases x <;> rw [e]
  · simp
  · simp
  · rcases s.applyWrite_cases x.addr x.wdata with
      ⟨_, -, hidle, -⟩ | ⟨-, -, e⟩ | ⟨-, hidle, -⟩ | ⟨-, e⟩ | ⟨-, e⟩ | ⟨-, e⟩
    · simp [hb] at hidle
    · simp [e]
    · simp [hb] at hidle
    · simp [e]
    · simp [e]
    · simp [e]

/-- Settles O20: the record changes only at acceptance, at an engine step and where it ends. -/
theorem pendingCommandIsFixedAtAcceptance : Obligations.PendingCommandIsFixedAtAcceptance := by
  intro s t p q hinv hstep hp hq
  have hb := hinv.busy_of_pending hp
  have hsame (h : t.pending = s.pending) : q = p := by simpa [h, hp, eq_comm] using hq
  have hrecord : q.word = p.word ∧ q.ops = p.ops ∧ q.left ≤ p.left := by
    cases stepEffect_of_step hstep with
    | refuse | read | drop | writeStatus | writeCtrl | ignore | rest | release => simp [hsame rfl]
    | store _ hidle | accept _ hidle => simp [hb] at hidle
    | tick _ _ hp' =>
      cases hp.symm.trans hp'
      cases hq
      exact ⟨rfl, rfl, Nat.sub_le _ _⟩
    | complete => simp at hq
    | reset => cases hq
  obtain ⟨hword, hops, hleft⟩ := hrecord
  refine ⟨hword, hops, hleft, ?_⟩
  rintro ⟨x, hx⟩
  obtain rfl := step_unique (step_of_host hx) hstep
  obtain ⟨hpend, hframe⟩ := State.serve_busy_frame (s := s.takeEvent) hb x
  exact ⟨hsame hpend, hframe⟩

/-- Settles O49: of the effects of a step only a store and a successful completion write registers. -/
theorem onlyTwoThingsWriteADataRegister : Obligations.OnlyTwoThingsWriteADataRegister := by
  intro s t k hstep hne
  cases stepEffect_of_step hstep with
  | refuse | read | drop | accept | writeStatus | writeCtrl | ignore | rest | tick | reset | release =>
    exact (hne rfl).elim
  | @store k' v hw hb =>
    have hreg : (s.takeEvent.writeReg k' v).respondToWrite.reg k = if k = k' then v else s.reg k :=
      s.takeEvent.reg_writeReg k' v k
    rw [hreg] at hne ⊢
    obtain rfl : k = k' := by_contra fun h => hne (if_neg h)
    exact .inl ⟨by rwa [if_pos rfl], hb⟩
  | @complete p r he hp _ hres =>
    cases r with
    | err c => exact (hne rfl).elim
    | ok ws z =>
      obtain ⟨i, hi, hdests⟩ := hres.ok_dests
      have hk : k ∈ dests i := hdests ▸ by_contra fun h => hne (s.takeEvent.writeAll_other ws k h).1
      exact .inr ⟨he, rfl, rfl, rfl, p, i, hp, hi, hk⟩

/-! ## STATUS -/

/-- BUSY falls only at a completion and by reset (R29). -/
theorem completes_of_busy_falls {s t : State} (h : step s = .next t) (hb : s.status.busy = true)
    (hb' : t.status.busy = false) (hr : s.nextEvent ≠ .rstRise) : ∃ r, t = s.takeEvent.complete r := by
  cases stepEffect_of_step h with
  | @complete _ r => exact ⟨r, rfl⟩
  | reset he => exact (hr he).elim
  | _ => simp [hb] at hb'

/-- Settles O50: only a drop sets OVERRUN; only a write of STATUS and reset clear it. -/
theorem overrunIsSetByDropsAndClearedByHostOrReset : Obligations.OverrunIsSetByDropsAndClearedByHostOrReset := by
  intro s t hstep
  refine ⟨?_, fun h0 h1 => ?_, fun h1 h0 => ?_⟩
  · rintro ⟨off, v, hw, hoff, hb⟩
    obtain rfl := step_unique (step_of_write_busy hw hoff hb) hstep
    rfl
  · cases stepEffect_of_step hstep with
    | drop hw hoff hb => exact ⟨_, _, hw, hoff, hb⟩
    | _ => simp [h0] at h1
  · cases stepEffect_of_step hstep with
    | writeStatus hw => exact .inl ⟨_, hw, by simpa [h1] using h0⟩
    | reset he => exact .inr he
    | _ => simp [h1] at h0

/-- DONE rises only at a completion (R30). -/
theorem completes_of_done_rises {s t : State} (hinv : s.Inv) (h : step s = .next t) (h0 : s.status.done = false)
    (h1 : t.status.done = true) : s.status.busy = true ∧ t.status.busy = false ∧ EngineNext s := by
  cases stepEffect_of_step h with
  | complete he hp => exact ⟨hinv.busy_of_pending hp, by simp, he⟩
  | _ => simp [h0] at h1

/-- DONE falls only by a host write of STATUS, by acceptance and by reset (R30). -/
theorem step_of_done_falls {s t : State} (h : step s = .next t) (h1 : s.status.done = true) (h0 : t.status.done = false) :
    (∃ v, WritesNext s 0x48 v ∧ v.getLsbD 1 = true) ∨ (∃ w, WritesNext s 0x40 w) ∨ s.nextEvent = .rstRise := by
  cases stepEffect_of_step h with
  | writeStatus hw => exact .inl ⟨_, hw, by simpa [h1] using h0⟩
  | accept hw => exact .inr (.inl ⟨_, hw⟩)
  | reset he => exact .inr (.inr he)
  | _ => simp [h1] at h0

/-- Settles O51: where DONE rises and falls, and the invariant after the step for the last clause. -/
theorem doneIsSetAndClearedAsR30Says : Obligations.DoneIsSetAndClearedAsR30Says := by
  intro s t hinv hstep
  refine ⟨fun hb hb' hr => ?_, completes_of_done_rises hinv hstep, ?_, ?_, fun he => ?_, step_of_done_falls hstep, ?_⟩
  · obtain ⟨r, rfl⟩ := completes_of_busy_falls hstep hb hb' hr
    simp
  · rintro ⟨v, hw, hv⟩
    obtain rfl := step_unique (step_of_write_status hw) hstep
    simp [hv]
  · rintro ⟨w, hw⟩ hb
    obtain rfl := step_unique (step_of_write_cmd hw hb) hstep
    rfl
  · obtain rfl := step_unique (step_of_rstRise he) hstep
    rfl
  · rintro ⟨hd, hb⟩
    obtain ⟨hd', -⟩ := (everyStepKeepsInvariant s t hinv hstep).busy_clear hb
    simp [hd'] at hd

/-- Settles O52: a drop and a write of STATUS touch none of the four fields. -/
theorem conditionFieldsChangeOnlyAtAcceptanceAndCompletion :
    Obligations.ConditionFieldsChangeOnlyAtAcceptanceAndCompletion := by
  intro s t hinv hstep hchange
  cases stepEffect_of_step hstep with
  | accept _ hb => exact .inl ⟨hb, rfl⟩
  | complete _ hp => exact .inr (.inl ⟨hinv.busy_of_pending hp, by simp⟩)
  | reset he => exact .inr (.inr he)
  | _ => simp at hchange

/-! ## LASTCMD and the interrupt output -/

/-- Settles O53: only acceptance and reset write LASTCMD. -/
theorem lastcmdIsTheLastAcceptedWord : Obligations.LastcmdIsTheLastAcceptedWord := by
  intro s t hstep
  constructor
  · cases stepEffect_of_step hstep with
    | refuse | read | store | drop | writeStatus | writeCtrl | ignore | rest | tick | release => exact .inl rfl
    | complete => exact .inl (by simp)
    | reset he => exact .inr (.inl ⟨he, rfl⟩)
    | accept hw hb => exact .inr (.inr ⟨hw, hb⟩)
  · intro w hw hb
    obtain rfl := step_unique (step_of_write_cmd hw hb) hstep
    rfl

/-- Settles O54: each clause from the one step its event makes. -/
theorem interruptFollowsDoneAndEnable : Obligations.InterruptFollowsDoneAndEnable := by
  intro s t _ hstep
  refine ⟨fun hb hb' hr => ?_, fun v hw => ?_, fun v hw => ?_, fun w hw hb => ?_, fun off v hw hoff hb => ?_⟩
  · obtain ⟨r, rfl⟩ := completes_of_busy_falls hstep hb hb' hr
    simp [State.irq]
  · obtain rfl := step_unique (step_of_write_ctrl hw) hstep
    rfl
  · obtain rfl := step_unique (step_of_write_status hw) hstep
    exact Bool.and_right_comm _ _ _
  · obtain rfl := step_unique (step_of_write_cmd hw hb) hstep
    rfl
  · obtain rfl := step_unique (step_of_write_busy hw hoff hb) hstep
    rfl

/-! ## The model's fault state -/

theorem mem_unwrittenReads {s : State} {rs : List Reg} {k : Reg} :
    ModelFault.unwrittenRead k ∈ (rs.filter fun r => !s.isWritten r).map ModelFault.unwrittenRead ↔
      s.isWritten k = false ∧ k ∈ rs := by
  simp [and_comm]

theorem mem_slotReads_slotOf {a : BitVec 7} {k : Reg} (ha : a.toNat % 8 = 0) :
    k ∈ slotReads (slotOf a) ↔ a.toNat = 8 * k.val := by
  have hmem : k ∈ slotReads (slotOf a) ↔ slotOf a = .data k := by
    cases slotOf a <;> simp [slotReads, eq_comm]
  rw [hmem, slotOf_eq_data]
  omega

theorem mem_wordSources {w : Word} {k : Reg} : k ∈ wordSources w ↔ ∃ i, decode w = .ok i ∧ k ∈ sources i := by
  unfold wordSources
  cases decode w <;> simp

/-- Settles O13: the one step a legal read of that register makes. -/
theorem unwrittenRegisterReadIsRecorded : Obligations.UnwrittenRegisterReadIsRecorded := by
  intro s i hread hw
  obtain ⟨a, ha, hstep⟩ := step_of_readsNext hread
  have hslot : slotOf a = .data i := slotOf_eq_data.2 (by omega)
  refine ⟨_, hstep, ?_, ⟨rfl, rfl, rfl, rfl, rfl, rfl, rfl⟩, ?_⟩
  · simp [Responds, State.windowRead, hslot]
  · simp [hslot, slotReads, hw]

/-- A step that serves no read and accepts no word records nothing. -/
theorem step_modelFaults {s t : State} (h : step s = .next t) (hread : ¬∃ off, ReadsNext s off)
    (haccept : ¬∃ w, WritesNext s 0x40 w ∧ s.status.busy = false) : t.modelFaults = s.modelFaults := by
  cases stepEffect_of_step h with
  | refuse | store | drop | writeStatus | writeCtrl | ignore | rest | tick | reset | release => rfl
  | read hr => exact (hread ⟨_, hr⟩).elim
  | accept hw hb => exact (haccept ⟨_, hw, hb⟩).elim
  | complete => simp

/-- Settles O55: a legal read, an acceptance, and every other step. -/
theorem unwrittenReadsAreRecorded : Obligations.UnwrittenReadsAreRecorded := by
  intro s t hstep
  by_cases hread : ∃ off, ReadsNext s off
  · obtain ⟨off, hr⟩ := hread
    obtain ⟨a, rfl, hs⟩ := step_of_readsNext hr
    obtain rfl := step_unique hs hstep
    refine ⟨_, rfl, fun k => mem_unwrittenReads.trans (and_congr_right fun _ => ?_)⟩
    rw [mem_slotReads_slotOf hr.aligned]
    constructor
    · exact fun e => .inl (e ▸ hr)
    · rintro (hk | ⟨w, i, hw, -⟩)
      · exact hr.unique hk
      · exact (hw.not_readsNext hr).elim
  by_cases haccept : ∃ w, WritesNext s 0x40 w ∧ s.status.busy = false
  · obtain ⟨w, hw, hb⟩ := haccept
    obtain rfl := step_unique (step_of_write_cmd hw hb) hstep
    refine ⟨_, rfl, fun k => mem_unwrittenReads.trans (and_congr_right fun _ => ?_)⟩
    rw [mem_wordSources]
    constructor
    · exact fun ⟨i, hi, hk⟩ => .inr ⟨w, i, hw, hb, hi, hk⟩
    · rintro (hk | ⟨w', i, hw', -, hi, hk⟩)
      · exact (hread ⟨_, hk⟩).elim
      · obtain ⟨-, rfl⟩ := hw.unique hw'
        exact ⟨i, hi, hk⟩
  · refine ⟨[], by simp [step_modelFaults hstep hread haccept], fun k => ⟨nofun, ?_⟩⟩
    rintro ⟨-, hk | ⟨w, i, hw, hb, -⟩⟩
    · exact (hread ⟨_, hk⟩).elim
    · exact (haccept ⟨w, hw, hb⟩).elim

end Sys2Proof.Machine

/-! # Command words field by field, and decoding of encoded commands (30_encoding.md) -/

namespace Sys2Proof

/-! ## Fields of a word put together from its parts (R81, R92) -/

theorem regField_or (v w : Word) (f : Field) : regField (v ||| w) f = regField v f ||| regField w f :=
  BitVec.extractLsb'_or

theorem opField_or (v w : Word) : opField (v ||| w) = opField v ||| opField w := BitVec.extractLsb'_or

theorem rsvField_or (v w : Word) : rsvField (v ||| w) = rsvField v ||| rsvField w := BitVec.extractLsb'_or

/-- A register placed in one field shows in that field only. -/
theorem regField_fieldVal (r : Reg) (f g : Field) :
    regField (fieldVal r <<< f.lsb) g = if f = g then BitVec.ofNat 4 r.val else 0#4 := by
  cases f <;> cases g <;> revert r <;> decide

theorem opField_fieldVal (r : Reg) (f : Field) : opField (fieldVal r <<< f.lsb) = 0#8 := by
  cases f <;> revert r <;> decide

theorem rsvField_fieldVal (r : Reg) (f : Field) : rsvField (fieldVal r <<< f.lsb) = 0#36 := by
  cases f <;> revert r <;> decide

theorem regField_code (o : Opcode) (f : Field) : regField (o.code.setWidth 64) f = 0#4 := by
  cases o <;> cases f <;> rfl

theorem opField_code (o : Opcode) : opField (o.code.setWidth 64) = o.code := by
  cases o <;> rfl

theorem rsvField_code (o : Opcode) : rsvField (o.code.setWidth 64) = 0#36 := by
  cases o <;> rfl

theorem opcodeOf_code (o : Opcode) : opcodeOf o.code = some o := by
  cases o <;> rfl

/-! ## Registers as field values (R82) -/

theorem regOf_ofNat (r : Reg) : regOf (BitVec.ofNat 4 r.val) = r := by
  revert r
  decide

theorem ofNat_reg_bit3 (r : Reg) : (BitVec.ofNat 4 r.val).getLsbD 3 = false := by
  revert r
  decide

theorem ofNat_reg_inj {r q : Reg} : BitVec.ofNat 4 r.val = BitVec.ofNat 4 q.val ↔ r = q :=
  ⟨fun h => by rw [← regOf_ofNat r, h, regOf_ofNat], fun h => h ▸ rfl⟩

/-! ## The word of an opcode and a register for each field -/

/-- A register for each field. -/
def perField (f1 f2 f3 f4 f5 : Reg) : Field → Reg
  | .f1 => f1
  | .f2 => f2
  | .f3 => f3
  | .f4 => f4
  | .f5 => f5

/-- The register a command has in each field, 0 where its format does not use the field (R83 to R86, R92). -/
def Instr.fieldReg : Instr → Field → Reg
  | .isprime rd rs1 => perField rd rs1 0 0 0
  | .gcd rd rs1 rs2 => perField rd rs1 rs2 0 0
  | .egcd rd rd2 rd3 rs1 rs2 => perField rd rs1 rs2 rd2 rd3
  | .modinv rd rs1 rs2 => perField rd rs1 rs2 0 0
  | .modpow rd rs1 rs2 rs3 => perField rd rs1 rs2 rs3 0
  | .modpows rd rs1 rs2 rs3 => perField rd rs1 rs2 rs3 0
  | .modmul rd rs1 rs2 rs3 => perField rd rs1 rs2 rs3 0
  | .modred rd rs1 rs2 => perField rd rs1 rs2 0 0

/-- `encode` places every register at its field's lowest bit, beside the opcode (R92). -/
theorem encode_eq (i : Instr) :
    encode i = (fieldVal (i.fieldReg .f5) <<< Field.f5.lsb) ||| (fieldVal (i.fieldReg .f4) <<< Field.f4.lsb) |||
      (fieldVal (i.fieldReg .f3) <<< Field.f3.lsb) ||| (fieldVal (i.fieldReg .f2) <<< Field.f2.lsb) |||
      (fieldVal (i.fieldReg .f1) <<< Field.f1.lsb) ||| i.opcode.code.setWidth 64 := by
  cases i <;> rfl

theorem opField_encode (i : Instr) : opField (encode i) = i.opcode.code := by
  simp [encode_eq, opField_or, opField_fieldVal, opField_code]

theorem rsvField_encode (i : Instr) : rsvField (encode i) = 0#36 := by
  simp [encode_eq, rsvField_or, rsvField_fieldVal, rsvField_code]

theorem regField_encode (i : Instr) (f : Field) : regField (encode i) f = BitVec.ofNat 4 (i.fieldReg f).val := by
  simp only [encode_eq, regField_or, regField_fieldVal, regField_code]
  cases f <;> simp

theorem regAt_encode (i : Instr) (f : Field) : regAt (encode i) f = i.fieldReg f := by
  rw [regAt, regField_encode, regOf_ofNat]

/-! ## `decode` after `encode` (R88) -/

theorem Instr.fieldReg_unused (i : Instr) {f : Field} (h : i.opcode.format.uses f = false) : i.fieldReg f = 0 := by
  revert h
  cases i <;> cases f <;> simp [Instr.opcode, Opcode.format, Format.uses, Instr.fieldReg, perField]

theorem fieldFault_encode (i : Instr) (f : Field) : fieldFault i.opcode.format (encode i) f = none := by
  unfold fieldFault
  rw [regField_encode, ofNat_reg_bit3]
  cases huse : i.opcode.format.uses f with
  | true => rfl
  | false => simp [i.fieldReg_unused huse]

theorem distinctDests_encode {i : Instr} (hwf : i.wf = true) (h : i.opcode.format = .e5) :
    distinctDests (encode i) = true := by
  cases i with
  | egcd => simpa [distinctDests, regField_encode, Instr.fieldReg, perField, ofNat_reg_inj, Instr.wf] using hwf
  | _ => cases h

theorem instrAt_encode (i : Instr) : instrAt (encode i) i.opcode = i := by
  cases i <;> simp [instrAt, Instr.opcode, regAt_encode, Instr.fieldReg, perField]

/-- The word of a well-formed command passes every check of R88 and gives the command back. -/
theorem decode_encode {i : Instr} (hwf : i.wf = true) : decode (encode i) = .ok i := by
  have hfields : Field.all.findSome? (fieldFault i.opcode.format (encode i)) = none :=
    List.findSome?_eq_none_iff.2 fun f _ => fieldFault_encode i f
  have hdests : ¬(i.opcode.format = .e5 ∧ distinctDests (encode i) = false) := fun ⟨he5, hd⟩ => by
    simp [distinctDests_encode hwf he5] at hd
  simp [decode, opField_encode, opcodeOf_code, rsvField_encode, hfields, hdests, instrAt_encode]

end Sys2Proof

/-! # The host's window (20_memory.md) -/

namespace Sys2Proof.Machine

/-! ## Slots (R52) -/

theorem slotOf_eq_ident {a : BitVec 7} : slotOf a = .ident ↔ a.toNat / 8 = 11 := by
  unfold slotOf
  split_ifs <;> simp <;> omega

theorem slotOf_eq_reserved {a : BitVec 7} : slotOf a = .reserved ↔ 12 ≤ a.toNat / 8 := by
  unfold slotOf
  split_ifs <;> simp <;> omega

theorem slotOf_congr {a b : BitVec 7} (h : a.toNat / 8 = b.toNat / 8) : slotOf a = slotOf b := by
  simp only [slotOf, h]

/-! ## What the window shows at each slot (R54) -/

section
variable {s : State} {a : BitVec 7}

theorem State.windowRead_data {i : Reg} (h : slotOf a = .data i) : s.windowRead a = s.reg i := by
  simp [State.windowRead, h]

theorem State.windowRead_cmd (h : slotOf a = .cmd) : s.windowRead a = s.lastCmd := by
  simp [State.windowRead, h]

theorem State.windowRead_status (h : slotOf a = .status) : s.windowRead a = s.status.word := by
  simp [State.windowRead, h]

theorem State.windowRead_ctrl (h : slotOf a = .ctrl) : s.windowRead a = ctrlWord s.irqEn := by
  simp [State.windowRead, h]

theorem State.windowRead_ident (h : slotOf a = .ident) : s.windowRead a = idWord := by
  simp [State.windowRead, h]

theorem State.windowRead_reserved (h : slotOf a = .reserved) : s.windowRead a = 0#64 := by
  simp [State.windowRead, h]

end

theorem ctrlWord_eq_ite (e : Bool) : ctrlWord e = if e then 1 else 0 := by
  cases e <;> rfl

/-! ## The fields of the STATUS word (R28, R36) -/

theorem getLsbD_flagBit (b : Bool) (n i : Nat) :
    (flagBit b n).getLsbD i = (decide (i < 64) && decide (i = n) && b) := by
  cases b with
  | false => simp [flagBit]
  | true =>
    rw [flagBit, if_pos rfl, ← BitVec.twoPow_eq, BitVec.getLsbD_twoPow]
    grind

theorem getElem_flagBit (b : Bool) {n i : Nat} (hi : i < 64) : (flagBit b n)[i] = (decide (i = n) && b) := by
  simp [← BitVec.getLsbD_eq_getElem, getLsbD_flagBit, hi]

theorem extractLsb'_flagBit (b : Bool) {n start len : Nat} (h : n < start ∨ start + len ≤ n) :
    (flagBit b n).extractLsb' start len = 0#len := by
  refine BitVec.eq_of_getLsbD_eq fun i hi => ?_
  have hne : start + i ≠ n := by omega
  simp [getLsbD_flagBit, hne]

theorem extractLsb'_errCode (c : ErrCode) :
    (c.code.setWidth 64 <<< 8 : Word).extractLsb' 8 4 = errNumber c := by
  cases c <;> rfl

theorem extractLsb'_errCode_outside (c : ErrCode) {start len : Nat} (h : start + len ≤ 8 ∨ 12 ≤ start) :
    (c.code.setWidth 64 <<< 8 : Word).extractLsb' start len = 0#len := by
  refine BitVec.eq_of_getLsbD_eq fun i hi => ?_
  have hbit : start + i < 8 ∨ c.code.getLsbD (start + i - 8) = false := by
    rcases h with hbelow | habove
    · exact .inl (by omega)
    · exact .inr (BitVec.getLsbD_of_ge _ _ (by omega))
  rcases hbit with h | h <;> simp [BitVec.getLsbD_shiftLeft, h]

/-- `Status.word` has every field at its bits and every reserved bit 0. -/
theorem Status.word_shows (st : Status) : ShowsStatus st.word st := by
  constructor <;>
    simp [Status.word, getElem_flagBit, BitVec.extractLsb'_or, extractLsb'_flagBit, extractLsb'_errCode,
      extractLsb'_errCode_outside]

/-! ## What a transaction without effect leaves: the state of the MEE (R53, R54, R57) -/

theorem State.refuseTxn_sameMee (s : State) : SameMee s s.takeEvent.refuseTxn :=
  ⟨rfl, rfl, rfl, rfl, rfl, rfl, rfl⟩

theorem State.serveRead_sameMee (s : State) (a : BitVec 7) : SameMee s (s.takeEvent.serveRead a) :=
  ⟨rfl, rfl, rfl, rfl, rfl, rfl, rfl⟩

theorem State.respondToWrite_sameMee (s : State) : SameMee s s.takeEvent.respondToWrite :=
  ⟨rfl, rfl, rfl, rfl, rfl, rfl, rfl⟩

/-- Reads of written registers record nothing (R23). -/
theorem State.noteReads_of_isWritten {s : State} {rs : List Reg} (h : ∀ r ∈ rs, s.isWritten r = true) :
    s.noteReads rs = s := by
  have hnone : rs.filter (fun r => !s.isWritten r) = [] := by simpa using h
  simp [State.noteReads, hnone]

/-! ## Transactions one at a time -/

/-- Settles O11: an access that is not legal is refused, whatever the level of `rst`. -/
theorem illegalAccessIsRefusedWithoutEffect : Obligations.IllegalAccessIsRefusedWithoutEffect := by
  intro s x hx hbad
  have hillegal : x.legal = false := by
    rw [← Bool.not_eq_true, x.legal_iff]
    tauto
  have hserve : s.takeEvent.serve x = s.takeEvent.refuseTxn := by simp [State.serve, hillegal]
  exact ⟨_, step_of_host hx, hserve ▸ ⟨s.refuseTxn_sameMee, rfl, rfl⟩⟩

/-- Settles O12: the slot at each offset gives what the window shows there. -/
theorem readsReturnTheWindow : Obligations.ReadsReturnTheWindow := by
  intro s off hread hwritten
  obtain ⟨a, rfl, hstep⟩ := step_of_readsNext hread
  have hnote : s.takeEvent.noteReads (slotReads (slotOf a)) = s.takeEvent :=
    State.noteReads_of_isWritten fun r hr => hwritten r ((mem_slotReads_slotOf hread.aligned).1 hr)
  refine ⟨_, s.takeEvent.windowRead a, hstep, rfl, s.serveRead_sameMee a, (congrArg State.modelFaults hnote :),
    fun i hi => ?_, fun h => ?_, fun h => ?_, fun h => ?_, fun h => ?_, fun h => ?_⟩
  · exact State.windowRead_data (slotOf_eq_data.2 (by omega))
  · exact State.windowRead_cmd (slotOf_eq_cmd.2 (by omega))
  · rw [State.windowRead_status (slotOf_eq_status.2 (by omega))]
    exact s.status.word_shows
  · rw [State.windowRead_ctrl (slotOf_eq_ctrl.2 (by omega))]
    exact ctrlWord_eq_ite s.irqEn
  · exact State.windowRead_ident (slotOf_eq_ident.2 (by omega))
  · exact State.windowRead_reserved (slotOf_eq_reserved.2 (by omega))

/-- R55: a data register is written. -/
theorem step_of_write_data {s : State} {k : Reg} {v : Word} (h : WritesNext s (8 * k.val) v)
    (hb : s.status.busy = false) : step s = .next (s.takeEvent.writeReg k v).respondToWrite := by
  obtain ⟨a, ha, hs⟩ := step_of_writesNext h
  have hslot : slotOf a = .data k := slotOf_eq_data.2 (by omega)
  simp [hs, State.applyWrite, hslot, hb]

/-- R57, R58: a write of ID or of a reserved offset is ignored. -/
theorem step_of_write_ignored {s : State} {off : Nat} {v : Word} (h : WritesNext s off v) (hoff : 0x58 ≤ off) :
    step s = .next s.takeEvent.respondToWrite := by
  obtain ⟨a, rfl, hs⟩ := step_of_writesNext h
  have hslot : slotOf a = .ident ∨ slotOf a = .reserved := by
    rw [slotOf_eq_ident, slotOf_eq_reserved]
    omega
  rcases hslot with hslot | hslot <;> simp [hs, State.applyWrite, hslot]

/-- Settles O14: what a register reads after the write, for the same and for another register. -/
theorem dataWriteWhileIdleStores : Obligations.DataWriteWhileIdleStores := by
  intro s i v hw hb
  have hreg (k : Reg) : (s.takeEvent.writeReg i v).respondToWrite.reg k = if k = i then v else s.reg k :=
    s.takeEvent.reg_writeReg i v k
  have hwritten (k : Reg) :
      (s.takeEvent.writeReg i v).respondToWrite.isWritten k = if k = i then true else s.isWritten k :=
    s.takeEvent.isWritten_writeReg i v k
  refine ⟨_, step_of_write_data hw hb, ⟨_, rfl⟩, ?_, ?_, fun k hk => ?_, rfl, rfl, rfl, rfl⟩
  · simp [hreg]
  · simp [hwritten]
  · simp [hreg, hwritten, hk]

/-- Settles O15: the step drops the write, and a drop touches OVERRUN alone. -/
theorem writeWhileBusyIsDropped : Obligations.WriteWhileBusyIsDropped :=
  fun _ _ _ hw hoff hb => ⟨_, step_of_write_busy hw hoff hb, ⟨_, rfl⟩, rfl, rfl, rfl, rfl, rfl, rfl⟩

/-- A set bit of the written value clears its field of STATUS, and a clear bit keeps it (R57). -/
theorem Status.hostWrite_eq_ite (st : Status) (v : Word) :
    st.hostWrite v = { st with
      done := if v.getLsbD 1 then false else st.done
      overrun := if v.getLsbD 16 then false else st.overrun } := by
  have hclear (b c : Bool) : (b && !c) = if c then false else b := by cases c <;> simp
  rw [Status.hostWrite, hclear, hclear]

/-- Settles O16: one step for each of the four offsets. -/
theorem controlWritesActWhateverBusyHolds : Obligations.ControlWritesActWhateverBusyHolds := by
  intro s v
  refine ⟨fun hw hb => ?_, fun hw => ?_, fun hw => ?_, fun hw => ?_⟩
  · exact ⟨_, step_of_write_cmd hw hb, ⟨_, rfl⟩, rfl, rfl, rfl⟩
  · exact ⟨_, step_of_write_status hw, ⟨_, rfl⟩, s.status.hostWrite_eq_ite v, rfl, rfl, rfl, rfl, rfl⟩
  · exact ⟨_, step_of_write_ctrl hw, ⟨_, rfl⟩, rfl, rfl, rfl, rfl, rfl, rfl⟩
  · exact ⟨_, step_of_write_ignored hw le_rfl, ⟨_, rfl⟩, s.respondToWrite_sameMee⟩

/-- Settles O17: a read there returns what the window shows, which is 0, and a write is ignored. -/
theorem reservedOffsetsReadZeroAndIgnoreWrites : Obligations.ReservedOffsetsReadZeroAndIgnoreWrites := by
  intro s off hoff
  refine ⟨fun hread => ?_, fun v hw => ?_⟩
  · obtain ⟨t, d, hstep, hresp, hsame, -, -, -, -, -, -, hzero⟩ :=
      readsReturnTheWindow s off hread fun i hi => by omega
    obtain rfl := hzero (by omega)
    exact ⟨t, hstep, hresp, hsame⟩
  · exact ⟨_, step_of_write_ignored hw (by omega), ⟨_, rfl⟩, s.respondToWrite_sameMee⟩

/-! ## Bytes of the window (R60) -/

/-- Bit i of the word that byte lanes hold is bit i mod 8 of lane i div 8. -/
theorem getLsbD_wordOfLanes (bs : List Byte) {i : Nat} (hi : i < 64) :
    (wordOfLanes bs).getLsbD i = (bs.getD (i / 8) 0#8).getLsbD (i % 8) := by
  induction bs generalizing i with
  | nil => simp [wordOfLanes]
  | cons b bs ih =>
    by_cases hlow : i < 8
    · simp [wordOfLanes, hi, hlow, Nat.div_eq_of_lt hlow, Nat.mod_eq_of_lt hlow]
    · obtain ⟨j, rfl⟩ : ∃ j, i = j + 8 := ⟨i - 8, by omega⟩
      have hj : j < 64 := by omega
      simpa [wordOfLanes, hi, BitVec.getLsbD_eq_getElem hj] using ih hj

theorem wordOfLanes_lanesOf (w : Word) : wordOfLanes (lanesOf w) = w := by
  refine BitVec.eq_of_getLsbD_eq fun i hi => ?_
  have hlane : (lanesOf w).getD (i / 8) 0#8 = laneByte w (i / 8) := by
    simp [lanesOf, List.getD, show i / 8 < 8 by omega]
  rw [getLsbD_wordOfLanes _ hi, hlane, laneByte, BitVec.getLsbD_extractLsb', Nat.div_add_mod]
  simp [Nat.mod_lt]

/-- The window shows one word throughout a slot. -/
theorem State.windowRead_congr (s : State) {a b : BitVec 7} (h : a.toNat / 8 = b.toNat / 8) :
    s.windowRead a = s.windowRead b := by
  simp only [State.windowRead, slotOf_congr h]

/-- Settles O18: the offsets 8n + k of a slot share its word, and k is the lane. -/
theorem windowBytesAreLittleEndian : Obligations.WindowBytesAreLittleEndian := by
  refine ⟨fun s n k hn hk => ?_, wordOfLanes_lanesOf⟩
  have hbyte : (BitVec.ofNat 7 (8 * n + k)).toNat = 8 * n + k := Nat.mod_eq_of_lt (by omega)
  have hword : (BitVec.ofNat 7 (8 * n)).toNat = 8 * n := Nat.mod_eq_of_lt (by omega)
  have hlane : (8 * n + k) % 8 = k := by omega
  rw [State.windowByte, s.windowRead_congr (b := BitVec.ofNat 7 (8 * n)) (by omega), hbyte, hlane, laneByte]

/-! ## The window after a completion (R105, R110) -/

/-- A completion changes no register but the command's destinations. -/
theorem State.complete_reg_of_notMem_dests {i : Instr} {ops : List Word} {r : CmdResult}
    (hr : resultOf i ops = some r) (s : State) {k : Reg} (hk : k ∉ dests i) : (s.complete r).reg k = s.reg k := by
  cases r with
  | err c => rfl
  | ok ws z => exact (s.writeAll_other ws k (by rwa [resultOf_dests hr])).1

/-- A completion changes what the window shows at the destinations and at STATUS only. -/
theorem State.windowRead_complete {i : Instr} {ops : List Word} {r : CmdResult} (hr : resultOf i ops = some r)
    (s : State) {a : BitVec 7} (hdest : ∀ k ∈ dests i, slotOf a ≠ .data k) (hstatus : slotOf a ≠ .status) :
    (s.complete r).windowRead a = s.windowRead a := by
  cases hs : slotOf a with
  | data k =>
    rw [windowRead_data hs, windowRead_data hs, s.complete_reg_of_notMem_dests hr fun hk => hdest k hk hs]
  | cmd => rw [windowRead_cmd hs, windowRead_cmd hs, complete_lastCmd]
  | status => exact (hstatus hs).elim
  | ctrl => rw [windowRead_ctrl hs, windowRead_ctrl hs, complete_irqEn]
  | ident => rw [windowRead_ident hs, windowRead_ident hs]
  | reserved => rw [windowRead_reserved hs, windowRead_reserved hs]

/-- Settles O48: the byte is a lane of a word that the completion does not change. -/
theorem commandsChangeOnlyTheirWindowBytes : Obligations.CommandsChangeOnlyTheirWindowBytes := by
  intro i s t off hexec hdests hstatus
  obtain ⟨ops, r, -, hr, rfl⟩ := exec_inv hexec
  have hread : (s.complete r).windowRead off = s.windowRead off :=
    s.windowRead_complete hr (fun k hk => mt slotOf_eq_data.1 (hdests k hk)) (mt slotOf_eq_status.1 hstatus)
  rw [State.windowByte, State.windowByte, hread]

/-! ## Host transactions while a command is pending (R56, R63, R66) -/

/-- While BUSY a host transaction changes neither BUSY nor what is outside the window. -/
theorem State.serve_busy_running {s : State} (hb : s.status.busy = true) (x : HostTxn) :
    (s.serve x).status.busy = true ∧ (s.serve x).rst = s.rst ∧ (s.serve x).inputs = s.inputs := by
  obtain ⟨-, e⟩ | ⟨-, -, -, e⟩ | ⟨-, -, -, e⟩ := s.serve_cases x <;> rw [e]
  · simp [hb]
  · simp [hb]
  · rcases s.applyWrite_cases x.addr x.wdata with
      ⟨_, -, hidle, -⟩ | ⟨-, -, e⟩ | ⟨-, hidle, -⟩ | ⟨-, e⟩ | ⟨-, e⟩ | ⟨-, e⟩
    · simp [hb] at hidle
    · simp [e, hb]
    · simp [hb] at hidle
    · simp [e, hb]
    · simp [e, hb]
    · simp [e, hb]

/-- What the host cannot change while a command is pending. -/
structure UndisturbedByHost (s t : State) : Prop where
  regs : t.regs = s.regs
  written : t.written = s.written
  lastCmd : t.lastCmd = s.lastCmd
  pending : t.pending = s.pending
  rst : t.rst = s.rst

theorem core_run_succ (n : Nat) {s t : State} (h : step s = .next t) :
    Sys2Proof.core.run (n + 1) s = Sys2Proof.core.run n t := by
  have hcore : Sys2Proof.core.step s = .next t := h
  simp only [Host.Core.run, hcore]

/-- A BUSY MEE serves any host transactions, one a step, and they do not disturb its pending command. -/
theorem run_hostTxns_of_busy (n : Nat) (xs : List HostTxn) (es : List Event) {s : State}
    (hb : s.status.busy = true) (hin : s.inputs = xs.map Event.host ++ es) :
    ∃ t : State, Sys2Proof.core.run (xs.length + n) s = Sys2Proof.core.run n t ∧ UndisturbedByHost s t ∧
      t.inputs = es := by
  induction xs generalizing s with
  | nil => exact ⟨s, by rw [List.length_nil, Nat.zero_add], ⟨rfl, rfl, rfl, rfl, rfl⟩, hin⟩
  | cons x xs ih =>
    have hstep : step s = .next (s.takeEvent.serve x) := step_of_host (by simp [State.nextEvent, hin])
    obtain ⟨hpend, hregs, hwritten, hlast⟩ := State.serve_busy_frame (s := s.takeEvent) hb x
    obtain ⟨hb', hrst, hinputs⟩ := State.serve_busy_running (s := s.takeEvent) hb x
    obtain ⟨t, hrun, hkept, ht⟩ := ih hb' (by simp [hinputs, hin])
    refine ⟨t, ?_, ⟨hkept.regs.trans hregs, hkept.written.trans hwritten, hkept.lastCmd.trans hlast,
      hkept.pending.trans hpend, hkept.rst.trans hrst⟩, ht⟩
    rw [List.length_cons, Nat.succ_add, core_run_succ _ hstep, hrun]

/-! ## A completion depends on the registers and the result alone (R104) -/

theorem State.writeAll_congr {s t : State} (hregs : t.regs = s.regs) (hwritten : t.written = s.written)
    (ws : List (Reg × Word)) :
    (t.writeAll ws).regs = (s.writeAll ws).regs ∧ (t.writeAll ws).written = (s.writeAll ws).written := by
  induction ws generalizing s t with
  | nil => exact ⟨hregs, hwritten⟩
  | cons kv ws ih => exact ih (by simp [hregs]) (by simp [hwritten])

/-- Two states with the same registers complete alike, OVERRUN apart. -/
theorem State.complete_congr {s t : State} (hregs : t.regs = s.regs) (hwritten : t.written = s.written)
    (r : CmdResult) :
    (t.complete r).regs = (s.complete r).regs ∧ (t.complete r).written = (s.complete r).written ∧
      (t.complete r).status = { (s.complete r).status with overrun := (t.complete r).status.overrun } := by
  cases r with
  | ok ws z =>
    obtain ⟨hr, hw⟩ := State.writeAll_congr hregs hwritten ws
    exact ⟨hr, hw, rfl⟩
  | err c => exact ⟨hregs, hwritten, rfl⟩

/-! ## A command from its acceptance to its completion -/

/-- Acceptance of a command's word captures its sources (R101). -/
theorem State.captured_encode (s : State) {i : Instr} (hwf : i.wf = true) :
    s.captured (encode i) = (sources i).map s.reg := by
  simp [State.captured, wordSources, decode_encode hwf]

theorem exists_resultOf_sources (i : Instr) (s : State) : ∃ r, resultOf i ((sources i).map s.reg) = some r := by
  rw [← Option.isSome_iff_exists, resultOf_isSome]
  simp

/-- The engine's steps complete a pending command with its result (R102; log 6). -/
theorem step_of_engineRun {s : State} {p : Pending} {i : Instr} {r : CmdResult} (h : s.nextEvent = .engineRun)
    (hrst : s.rst = false) (hp : s.pending = some p) (hi : decode p.word = .ok i) (hr : resultOf i p.ops = some r) :
    step s = .next (s.takeEvent.complete r) := by
  have hops : s.takeEvent.pendingOps = some p.ops := by simp [State.pendingOps, hp]
  simp [step, runEvent, h, hrst, engineRun, hp, completeWord, hi, exec_of_result hops hr]

/-- Settles O57: acceptance captures the operands, the host leaves record and registers alone, and the completion depends
on nothing else. -/
theorem hostCannotDisturbAPendingCommand : Obligations.HostCannotDisturbAPendingCommand := by
  intro i s xs hwf _ hrst hidle hin
  obtain ⟨r, hr⟩ := exists_resultOf_sources i s
  have hwrite : WritesNext s 0x40 (encode i) :=
    ⟨⟨memWrite 0x40 (encode i), by simp [State.nextEvent, hin], rfl, rfl, rfl, rfl⟩, rfl, hrst⟩
  have haccept := step_of_write_cmd hwrite hidle
  obtain ⟨u, hrun, hkept, hu⟩ := run_hostTxns_of_busy (s := (s.takeEvent.accept (encode i)).respondToWrite) 1 xs
    [.engineRun] rfl (by simp [hin])
  have hcomplete : step u = .next (u.takeEvent.complete r) :=
    step_of_engineRun (by simp [State.nextEvent, hu]) (hkept.rst.trans hrst) hkept.pending (decode_encode hwf)
      ((congrArg (resultOf i) (s.captured_encode hwf)).trans hr)
  obtain ⟨hregs, hwritten, hstatus⟩ :=
    State.complete_congr (s := s.pendingOn (encode i) ((sources i).map s.reg)) (t := u.takeEvent) hkept.regs
      hkept.written r
  refine ⟨u.takeEvent.complete r, _, ?_, exec_of_result rfl hr, hregs, hwritten, by simp [hkept.lastCmd], by simp,
    hstatus⟩
  rw [core_run_succ _ haccept, hrun, core_run_succ 0 hcomplete]
  rfl

end Sys2Proof.Machine

/-! # Legal command words: `encode` after `decode`, the opcode table, the worked encodings (30_encoding.md) -/

namespace Sys2Proof

/-! ## A word is its fields (R81) -/

/-- The `len` bits above the `n` lowest, put before them, give the `len + n` lowest. -/
theorem extractLsb'_append_lowest (w : Word) (len n : Nat) :
    w.extractLsb' n len ++ w.extractLsb' 0 n = w.extractLsb' 0 (len + n) :=
  BitVec.extractLsb'_append_extractLsb'_eq_extractLsb' (by omega)

/-- The seven fields of R81 lie side by side and leave no bit out. -/
theorem append_fields (w : Word) :
    rsvField w ++
      (regField w .f5 ++ (regField w .f4 ++ (regField w .f3 ++ (regField w .f2 ++ (regField w .f1 ++ opField w))))) =
        w := by
  unfold rsvField regField opField Field.lsb
  simp only [extractLsb'_append_lowest]
  exact BitVec.extractLsb'_eq_self

/-- Two words are the same exactly when all their fields are. -/
theorem word_eq_iff {v w : Word} :
    v = w ↔ opField v = opField w ∧ rsvField v = rsvField w ∧ ∀ f, regField v f = regField w f := by
  constructor
  · rintro rfl
    exact ⟨rfl, rfl, fun _ => rfl⟩
  · rintro ⟨hop, hrsv, hreg⟩
    rw [← append_fields v, ← append_fields w, hop, hrsv]
    simp only [hreg]

/-! ## Which words decode, and to what (R88) -/

theorem opcodeOf_eq_some {v : BitVec 8} {o : Opcode} : opcodeOf v = some o ↔ v = o.code := by
  constructor
  · intro h
    have hcode : o.code = v := by simpa using List.find?_some h
    exact hcode.symm
  · rintro rfl
    exact opcodeOf_code o

theorem Opcode.code_injective : Function.Injective Opcode.code := fun o o' h =>
  Option.some.inj <| by rw [← opcodeOf_code o, h, opcodeOf_code]

/-- Every check of R88 on a word of opcode o but the last, which is EGCD's own. -/
structure FieldsPass (w : Word) (o : Opcode) : Prop where
  op : opField w = o.code
  rsv : rsvField w = 0#36
  reg : ∀ f, fieldFault o.format w f = none

theorem instrAt_opcode (w : Word) (o : Opcode) : (instrAt w o).opcode = o := by
  cases o <;> rfl

/-- `decode` finds no fault among the fields exactly when no field has one. -/
theorem findSome?_fieldFault_eq_none {fmt : Format} {w : Word} :
    Field.all.findSome? (fieldFault fmt w) = none ↔ ∀ f, fieldFault fmt w f = none :=
  List.findSome?_eq_none_iff.trans ⟨fun h f => h f (by cases f <;> decide), fun h f _ => h f⟩

/-- A word decodes exactly when it passes every check of R88, and then to the command of its opcode and fields. -/
theorem decode_eq_ok_iff {w : Word} {i : Instr} :
    decode w = .ok i ↔
      FieldsPass w i.opcode ∧ (i.opcode.format = .e5 → distinctDests w = true) ∧ instrAt w i.opcode = i := by
  constructor
  · intro h
    unfold decode at h
    split at h
    next => cases h
    next o hop =>
      split at h
      next => cases h
      next hrsv =>
        split at h
        next => cases h
        next hreg =>
          split at h
          next => cases h
          next hdests =>
            cases h
            have hpass : FieldsPass w o := ⟨opcodeOf_eq_some.1 hop, not_not.1 hrsv, findSome?_fieldFault_eq_none.1 hreg⟩
            rw [instrAt_opcode]
            exact ⟨hpass, fun he5 => by simpa [he5] using hdests, rfl⟩
  · rintro ⟨⟨hop, hrsv, hreg⟩, hdests, hi⟩
    have hdistinct : ¬(i.opcode.format = .e5 ∧ distinctDests w = false) := fun ⟨he5, hd⟩ => by
      simp [hdests he5] at hd
    simp [decode, opcodeOf_eq_some.2 hop, hrsv, findSome?_fieldFault_eq_none.2 hreg, hdistinct, hi]

/-! ## `encode` after `decode` (R92) -/

/-- A field value below 8 is the number of the register it names. -/
theorem ofNat_regOf {v : BitVec 4} (h : v.getLsbD 3 = false) : BitVec.ofNat 4 (regOf v).val = v := by
  revert v
  decide

theorem fieldFault_eq_none_used {fmt : Format} {w : Word} {f : Field} (h : fmt.uses f = true) :
    fieldFault fmt w f = none ↔ (regField w f).getLsbD 3 = false := by
  simp [fieldFault, h]

theorem fieldFault_eq_none_unused {fmt : Format} {w : Word} {f : Field} (h : fmt.uses f = false) :
    fieldFault fmt w f = none ↔ regField w f = 0#4 := by
  simp [fieldFault, h]

theorem fieldReg_instrAt_used {w : Word} {o : Opcode} {f : Field} (h : o.format.uses f = true) :
    (instrAt w o).fieldReg f = regAt w f := by
  revert h
  cases o <;> cases f <;> simp [Opcode.format, Format.uses, instrAt, Instr.fieldReg, perField]

/-- The command read from fields that pass is encoded by the same fields. -/
theorem encode_instrAt {w : Word} {o : Opcode} (h : FieldsPass w o) : encode (instrAt w o) = w := by
  refine word_eq_iff.2 ⟨?_, ?_, fun f => ?_⟩
  · rw [opField_encode, instrAt_opcode, h.op]
  · rw [rsvField_encode, h.rsv]
  · rw [regField_encode]
    cases huse : o.format.uses f with
    | true =>
      rw [fieldReg_instrAt_used huse]
      exact ofNat_regOf ((fieldFault_eq_none_used huse).1 (h.reg f))
    | false =>
      rw [Instr.fieldReg_unused _ (by rwa [instrAt_opcode])]
      exact ((fieldFault_eq_none_unused huse).1 (h.reg f)).symm

/-- Distinct destination fields are all that well-formedness asks of a command (R86). -/
theorem wf_of_distinctDests_encode {i : Instr} (h : i.opcode.format = .e5 → distinctDests (encode i) = true) :
    i.wf = true := by
  cases i with
  | egcd => simpa [distinctDests, regField_encode, Instr.fieldReg, perField, ofNat_reg_inj, Instr.wf] using h rfl
  | _ => rfl

theorem encode_of_decode {w : Word} {i : Instr} (h : decode w = .ok i) : encode i = w ∧ i.wf = true := by
  obtain ⟨hpass, hdests, hi⟩ := decode_eq_ok_iff.1 h
  have hw : encode i = w := by rw [← hi, encode_instrAt hpass]
  exact ⟨hw, wf_of_distinctDests_encode (hw.symm ▸ hdests)⟩

/-! ## Masks and matches of the opcode table (R89) -/

theorem regField_and (v w : Word) (f : Field) : regField (v &&& w) f = regField v f &&& regField w f :=
  BitVec.extractLsb'_and

theorem opField_and (v w : Word) : opField (v &&& w) = opField v &&& opField w := BitVec.extractLsb'_and

theorem rsvField_and (v w : Word) : rsvField (v &&& w) = rsvField v &&& rsvField w := BitVec.extractLsb'_and

theorem opField_mask (o : Opcode) : opField o.mask = BitVec.allOnes 8 := by
  cases o <;> rfl

theorem rsvField_mask (o : Opcode) : rsvField o.mask = BitVec.allOnes 36 := by
  cases o <;> rfl

/-- A mask looks at bit 3 of a field the format uses, and at all of a field it does not use. -/
theorem regField_mask (o : Opcode) (f : Field) :
    regField o.mask f = if o.format.uses f then 8#4 else BitVec.allOnes 4 := by
  cases o <;> cases f <;> rfl

theorem opField_matchWord (o : Opcode) : opField o.matchWord = o.code := by
  cases o <;> rfl

theorem rsvField_matchWord (o : Opcode) : rsvField o.matchWord = 0#36 := by
  cases o <;> rfl

theorem regField_matchWord (o : Opcode) (f : Field) : regField o.matchWord f = 0#4 := by
  cases o <;> cases f <;> rfl

theorem and_bit3_eq_zero {v : BitVec 4} : v &&& 8#4 = 0#4 ↔ v.getLsbD 3 = false := by
  revert v
  decide

theorem regField_and_mask {w : Word} {o : Opcode} {f : Field} :
    regField w f &&& regField o.mask f = 0#4 ↔ fieldFault o.format w f = none := by
  rw [regField_mask]
  cases huse : o.format.uses f with
  | true => exact and_bit3_eq_zero.trans (fieldFault_eq_none_used huse).symm
  | false => rw [if_neg (by decide), BitVec.and_allOnes, fieldFault_eq_none_unused huse]

/-- The mask and match of a row say, field by field, what the checks of R88 say. -/
theorem and_mask_eq_matchWord_iff {w : Word} {o : Opcode} : w &&& o.mask = o.matchWord ↔ FieldsPass w o := by
  rw [word_eq_iff, opField_and, rsvField_and, opField_mask, rsvField_mask, opField_matchWord, rsvField_matchWord,
    BitVec.and_allOnes, BitVec.and_allOnes]
  simp only [regField_and, regField_matchWord, regField_and_mask]
  exact ⟨fun ⟨hop, hrsv, hreg⟩ => ⟨hop, hrsv, hreg⟩, fun h => ⟨h.op, h.rsv, h.reg⟩⟩

theorem Opcode.format_eq_e5 {o : Opcode} : o.format = .e5 ↔ o = .egcd := by
  cases o <;> decide

theorem distinctDests_iff {w : Word} :
    distinctDests w = true ↔
      regField w .f1 ≠ regField w .f4 ∧ regField w .f1 ≠ regField w .f5 ∧ regField w .f4 ≠ regField w .f5 := by
  simp [distinctDests, and_assoc]

/-- A word decodes to a command of opcode o exactly when it passes o's checks. -/
theorem exists_decode_iff {w : Word} {o : Opcode} :
    (∃ i, decode w = .ok i ∧ i.opcode = o) ↔ FieldsPass w o ∧ (o.format = .e5 → distinctDests w = true) := by
  constructor
  · rintro ⟨i, hi, rfl⟩
    obtain ⟨hpass, hdests, -⟩ := decode_eq_ok_iff.1 hi
    exact ⟨hpass, hdests⟩
  · rintro ⟨hpass, hdests⟩
    refine ⟨instrAt w o, decode_eq_ok_iff.2 ?_, instrAt_opcode w o⟩
    rw [instrAt_opcode]
    exact ⟨hpass, hdests, rfl⟩

/-! ## The statements -/

/-- Settles O1: the word of a well-formed command passes every check of R88, its registers each in their field. -/
theorem encodeThenDecodeIsIdentity : Obligations.EncodeThenDecodeIsIdentity := fun _ hwf => decode_encode hwf

/-- Settles O2: every bit of a word lies in a field, and the checks of R88 fix every field by the command. -/
theorem decodeThenEncodeIsIdentity : Obligations.DecodeThenEncodeIsIdentity := fun _ _ h => encode_of_decode h

/-- Settles O3: a row's mask and match are the checks of R88, and two rows that match one word have the same code. -/
theorem decodeAgreesWithOpcodeTable : Obligations.DecodeAgreesWithOpcodeTable := by
  refine ⟨fun w o => ?_, fun w o o' h h' => Opcode.code_injective ?_⟩
  · rw [exists_decode_iff, and_mask_eq_matchWord_iff, Opcode.format_eq_e5, distinctDests_iff]
  · exact (and_mask_eq_matchWord_iff.1 h).op.symm.trans (and_mask_eq_matchWord_iff.1 h').op

/-- Settles O4: R95's nine lines and eight words are closed, so the assembler and the decoder evaluate on them. -/
theorem workedEncodingsOfR95 : Obligations.WorkedEncodingsOfR95 := by
  unfold Obligations.WorkedEncodingsOfR95
  decide

end Sys2Proof

/-! # The last engine step of a placed command (40_command_execution.md R101, R102; log 13) -/

namespace Sys2Proof.Machine

/-- The last engine step of a pending command is `exec` of it (R102). -/
theorem step_of_lastEngineStep {s : State} {p : Pending} {i : Instr} (h : s.nextEvent = .engine) (hrst : s.rst = false)
    (hp : s.pending = some p) (hleft : p.left = 1) (hi : decode p.word = .ok i) : step s = exec i s.takeEvent := by
  simp [step, runEvent, h, hrst, engineStep, hp, hleft, completeWord, hi]

theorem State.withFetchWord_toNat (s : State) (w : Word) : s.withFetchWord 64 w.toNat = s.placeCommand w := by
  rw [State.withFetchWord, Nat.mod_eq_of_lt w.isLt, BitVec.ofNat_toNat, BitVec.setWidth_eq]

/-- Settles O24: the placed record holds the command's word, its captured sources and one engine step. -/
theorem placedCommandRunsOnTheNextStep : Obligations.PlacedCommandRunsOnTheNextStep := by
  intro s i hwf
  have hops : (s.placeCommand (encode i)).takeEvent.pendingOps = some ((sources i).map s.reg) :=
    congrArg some (s.captured_encode hwf)
  obtain ⟨r, hr⟩ := exists_resultOf_sources i s
  rw [State.withFetchWord_toNat]
  exact ⟨_, step_of_lastEngineStep rfl rfl rfl rfl (decode_encode hwf), hops, rfl, rfl, rfl, rfl, rfl, _,
    exec_of_result hops hr⟩

end Sys2Proof.Machine

/-! # Acceptance, engine steps and completion (40_command_execution.md R100 to R112) -/

namespace Sys2Proof.Machine

/-! ## Engine steps (R102) -/

/-- An engine step that is not the last takes one off `left`. -/
theorem step_of_engineStep_notLast {s : State} {p : Pending} (h : s.nextEvent = .engine) (hrst : s.rst = false)
    (hp : s.pending = some p) (hl : 1 < p.left) :
    step s = .next { s.takeEvent with pending := some { p with left := p.left - 1 } } := by
  simp [step, runEvent, h, hrst, engineStep, hp, hl]

/-- Settles O22: such a step changes the record, the inputs and the response ports alone. -/
theorem engineStepBeforeCompletionIsInvisible : Obligations.EngineStepBeforeCompletionIsInvisible :=
  fun _ _ h hrst hp hl => ⟨_, step_of_engineStep_notLast h hrst hp hl, rfl, fun _ => rfl, rfl, rfl⟩

/-- Settles O23: the step is `completeWord` of a word that decodes, and `takeEvent` is that update by definition. -/
theorem lastEngineStepRunsTheDecodedCommand : Obligations.LastEngineStepRunsTheDecodedCommand :=
  fun _ _ _ h hrst hp hl hi => ⟨step_of_lastEngineStep h hrst hp hl hi, rfl⟩

/-- A word has a result on any operands that are one for each of its sources (R103). -/
theorem exists_wordResult {w : Word} {ops : List Word} (h : ops.length = (wordSources w).length) :
    ∃ r, WordResult w ops r := by
  cases hw : decode w with
  | error e => exact ⟨_, .inr ⟨⟨e, hw⟩, rfl⟩⟩
  | ok i =>
    have hsome : (resultOf i ops).isSome := by simpa [resultOf_isSome, wordSources, hw] using h
    obtain ⟨r, hr⟩ := Option.isSome_iff_exists.1 hsome
    exact ⟨r, .inl ⟨i, hw, hr⟩⟩

theorem completeWord_of_wordResult {s : State} {w : Word} {ops : List Word} {r : CmdResult}
    (hops : s.pendingOps = some ops) (hr : WordResult w ops r) : completeWord w s = .next (s.complete r) := by
  obtain ⟨i, hi, hr⟩ | ⟨⟨e, he⟩, rfl⟩ := hr
  · simp [completeWord, hi, exec_of_result hops hr]
  · simp [completeWord, he]

/-- Under the invariant the last engine step, or the whole row of them, completes the pending command. -/
theorem State.Inv.step_completes {s : State} (hinv : s.Inv) {p : Pending} (he : EngineNext s)
    (hp : s.pending = some p) (hl : s.nextEvent = .engine → p.left ≤ 1) :
    ∃ r, step s = .next (s.takeEvent.complete r) := by
  obtain ⟨-, -, hlen⟩ := hinv.pending_record p hp
  obtain ⟨r, hr⟩ := exists_wordResult hlen
  have hops : s.takeEvent.pendingOps = some p.ops := by simp [State.pendingOps, hp]
  have hcomplete := completeWord_of_wordResult hops hr
  obtain ⟨hev | hev, hrst⟩ := he
  · exact ⟨r, by simp [step, runEvent, hev, hrst, engineStep, hp, not_lt.2 (hl hev), hcomplete]⟩
  · exact ⟨r, by simp [step, runEvent, hev, hrst, engineRun, hp, hcomplete]⟩

/-! ## What stops the machine (R103, R200, R223) -/

/-- An engine event finds nothing to do while IDLE and while `rst` is 1. -/
theorem step_of_engine_resting {s : State} (he : s.nextEvent = .engine ∨ s.nextEvent = .engineRun)
    (hrest : s.rst = true ∨ s.pending = none) : step s = .next s.takeEvent := by
  rcases he with he | he <;> rcases hrest with h | h <;> simp [step, runEvent, he, h, engineStep, engineRun]

/-- Under the invariant an engine event always has a next state: it rests, ticks, or completes. -/
theorem State.Inv.exists_step_of_engine {s : State} (hinv : s.Inv)
    (he : s.nextEvent = .engine ∨ s.nextEvent = .engineRun) : ∃ t, step s = .next t := by
  cases hrst : s.rst with
  | true => exact ⟨_, step_of_engine_resting he (.inl hrst)⟩
  | false =>
    cases hp : s.pending with
    | none => exact ⟨_, step_of_engine_resting he (.inr hp)⟩
    | some p =>
      by_cases htick : s.nextEvent = .engine ∧ 1 < p.left
      · exact ⟨_, step_of_engineStep_notLast htick.1 hrst hp htick.2⟩
      · obtain ⟨r, hr⟩ := hinv.step_completes ⟨he, hrst⟩ hp fun h => not_lt.1 fun hl => htick ⟨h, hl⟩
        exact ⟨_, hr⟩

/-- Settles O8: one event at a time; only an engine event needs the invariant. -/
theorem onlyASecondHostStopsTheMachine : Obligations.OnlyASecondHostStopsTheMachine := by
  intro s hinv
  refine ⟨fun hone => ?_, fun x hx => by simp [step, runEvent, hx]⟩
  cases hev : s.nextEvent with
  | host x => exact ⟨_, step_of_host hev⟩
  | secondHost x => exact (hone x hev).elim
  | engine => exact hinv.exists_step_of_engine (.inl hev)
  | engineRun => exact hinv.exists_step_of_engine (.inr hev)
  | rstRise => exact ⟨_, step_of_rstRise hev⟩
  | rstFall => exact ⟨{ s.takeEvent with rst := false }, by simp [step, runEvent, hev]⟩

/-! ## Acceptance (R101) -/

/-- The sources of a command read from a word are the registers its source fields name, in the order F2, F3, F4. -/
theorem sources_instrAt (w : Word) (o : Opcode) : sources (instrAt w o) = (sourceFields o.format).map (regAt w) := by
  cases o <;> rfl

theorem wordSources_of_decode {w : Word} {i : Instr} (h : decode w = .ok i) :
    wordSources w = (sourceFields i.opcode.format).map (regAt w) := by
  obtain ⟨-, -, hi⟩ := decode_eq_ok_iff.1 h
  rw [← sources_instrAt, hi]
  simp [wordSources, h]

theorem wordSources_of_illegal {w : Word} {e : Illegal} (h : decode w = .error e) : wordSources w = [] := by
  simp [wordSources, h]

/-- Settles O19: the one step an accepted write makes, with the sources of the word named by its fields. -/
theorem acceptanceCapturesWordAndOperands : Obligations.AcceptanceCapturesWordAndOperands := by
  intro s w hw hb
  refine ⟨_, _, step_of_write_cmd hw hb, rfl, rfl, rfl, rfl, rfl, rfl, rfl, rfl, Nat.le_add_left _ _, fun e he => ?_,
    fun i hi => ⟨?_, _, rfl, fun k => mem_unwrittenReads.trans (and_congr_right fun _ => ?_)⟩⟩
  · simp [State.captured, wordSources_of_illegal he]
  · simp [State.captured, wordSources_of_decode hi]
  · simp [wordSources_of_decode hi]

/-! ## IDLE and BUSY (R100) -/

/-- Settles O21: of the effects of a step only acceptance raises BUSY, and only a completion and reset lower it. -/
theorem idleAndBusyChangeOnlyAsR100Says : Obligations.IdleAndBusyChangeOnlyAsR100Says := by
  intro s t hinv hstep
  refine ⟨?_, fun hb hb' => ?_, fun hb hb' => ?_⟩
  · rw [(everyStepKeepsInvariant s t hinv hstep).busy_pending, Option.isSome_iff_ne_none]
  · cases stepEffect_of_step hstep with
    | accept hw => exact ⟨_, hw, rfl⟩
    | _ => simp [hb] at hb'
  · cases stepEffect_of_step hstep with
    | complete he => exact .inl ⟨he, by simp⟩
    | reset he => exact .inr he
    | _ => simp [hb] at hb'

/-! ## A pending command left alone completes (R102, R243; log 5) -/

theorem State.nextEvent_of_noInputs {s : State} (h : s.inputs = []) : s.nextEvent = .engine := by
  simp [State.nextEvent, h]

/-- With no input waiting the engine moves, so as many steps as the record says are left end in the completion. -/
theorem run_left_completes (n : Nat) {s : State} {p : Pending} (hinv : s.Inv) (hrst : s.rst = false)
    (hin : s.inputs = []) (hp : s.pending = some p) (hl : p.left = n + 1) :
    ∃ (u : State) (r : CmdResult), Sys2Proof.core.run (n + 1) s = .next (u.complete r) ∧ u.lastCmd = s.lastCmd := by
  induction n generalizing s p with
  | zero =>
    have hev := State.nextEvent_of_noInputs hin
    obtain ⟨r, hr⟩ := hinv.step_completes ⟨.inl hev, hrst⟩ hp fun _ => hl.le
    exact ⟨s.takeEvent, r, core_run_succ 0 hr, rfl⟩
  | succ n ih =>
    have htick := step_of_engineStep_notLast (State.nextEvent_of_noInputs hin) hrst hp (by omega)
    obtain ⟨u, r, hrun, hlast⟩ :=
      ih (everyStepKeepsInvariant s _ hinv htick) hrst (by simp [hin]) rfl (by simp [hl])
    exact ⟨u, r, (core_run_succ _ htick).trans hrun, hlast⟩

/-- Settles O56: under the invariant at least one step is left, and `left` steps end in the completion. -/
theorem busyMeeCompletes : Obligations.BusyMeeCompletes := by
  intro s p hinv hrst hin hp
  obtain ⟨-, hleft, -⟩ := hinv.pending_record p hp
  obtain ⟨n, hn⟩ : ∃ n, p.left = n + 1 := ⟨p.left - 1, by omega⟩
  obtain ⟨u, r, hrun, hlast⟩ := run_left_completes n hinv hrst hin hp hn
  exact ⟨_, hn ▸ hrun, by simp, by simp, by simp, by simp [hlast]⟩

/-! ## What a command can change (R105, R106, R110) -/

/-- A completion leaves alone what R110 lists, whatever the result. -/
theorem State.complete_kept (s : State) (r : CmdResult) : KeptByCompletion s (s.complete r) := by
  obtain ⟨hlast, hirq, hrst, hrsp, hin, hfaults, hfree, hover, -⟩ := s.complete_frame r
  exact ⟨hlast, hirq, hover, hrst, hrsp, hin, hfaults, hfree⟩

/-- A completion marks no register but the command's destinations. -/
theorem State.complete_isWritten_of_notMem_dests {i : Instr} {ops : List Word} {r : CmdResult}
    (hr : resultOf i ops = some r) (s : State) {k : Reg} (hk : k ∉ dests i) :
    (s.complete r).isWritten k = s.isWritten k := by
  cases r with
  | err c => rfl
  | ok ws z => exact (s.writeAll_other ws k (by rwa [resultOf_dests hr])).2

/-- Settles O47: `exec` is one completion, whose writes name the destinations. -/
theorem commandsChangeOnlyDestinationsAndStatus : Obligations.CommandsChangeOnlyDestinationsAndStatus := by
  intro i s t hexec
  obtain ⟨ops, r, -, hr, rfl⟩ := exec_inv hexec
  exact ⟨s.complete_kept r, fun k hk =>
    ⟨s.complete_reg_of_notMem_dests hr hk, s.complete_isWritten_of_notMem_dests hr hk⟩⟩

/-! ## A result depends on the operands alone (R104) -/

/-- What a commit leaves in a register it names does not depend on the registers before. -/
theorem State.writeAll_reg_of_named (s u : State) {ws : List (Reg × Word)} {k : Reg} (h : k ∈ ws.map Prod.fst) :
    (s.writeAll ws).reg k = (u.writeAll ws).reg k := by
  induction ws generalizing s u with
  | nil => simp at h
  | cons kv ws ih =>
    simp only [State.writeAll_cons]
    by_cases hlater : k ∈ ws.map Prod.fst
    · exact ih _ _ hlater
    · obtain rfl : k = kv.1 := by simpa [hlater] using h
      rw [(State.writeAll_other _ ws _ hlater).1, (State.writeAll_other _ ws _ hlater).1, State.reg_writeReg,
        State.reg_writeReg, if_pos rfl, if_pos rfl]

/-- Settles O45: both states complete with the one result that the operands give. -/
theorem resultDependsOnOperandsAlone : Obligations.ResultDependsOnOperandsAlone := by
  intro i s u s' hops hexec
  obtain ⟨ops, r, hs, hr, rfl⟩ := exec_inv hexec
  refine ⟨_, exec_of_result (hops.symm.trans hs) hr, fun hok k hk => ?_, ?_⟩
  · cases r with
    | err c => simp at hok
    | ok ws z => exact State.writeAll_reg_of_named s u (by rwa [resultOf_dests hr])
  · cases r <;> exact ⟨rfl, rfl, rfl, rfl⟩

end Sys2Proof.Machine

/-! # The loops of the commands: how long they run, and the range of what they give (R111, R112, R135, R242) -/

namespace Sys2Proof.Machine

/-! ## Euclid's rounds (R242) -/

@[simp] theorem euclidCounted_rounds_zero (f a : Nat) : (euclidCounted f a 0).2 = 0 := by
  cases f <;> rfl

theorem euclidCounted_rounds_succ (f a : Nat) {b : Nat} (hb : b ≠ 0) :
    (euclidCounted (f + 1) a b).2 = (euclidCounted f b (a % b)).2 + 1 := by
  simp [euclidCounted, hb]

/-- One round at most comes before the rounds on the next pair, whatever the fuel. -/
theorem euclidCounted_rounds_le_succ (f a b : Nat) :
    (euclidCounted f a b).2 ≤ (euclidCounted (f - 1) b (a % b)).2 + 1 := by
  obtain rfl | hb := eq_or_ne b 0
  · simp
  · cases f with
    | zero => exact Nat.zero_le _
    | succ f => exact (euclidCounted_rounds_succ f a hb).le

/-- Lamé's bound: one round leaves a remainder r below the Fibonacci number before b's, or, as b - r is below the one before
that, two rounds do. -/
theorem euclidCounted_rounds_le_of_lt_fib {n b : Nat} (f a : Nat) (h : b < Nat.fib (n + 2)) :
    (euclidCounted f a b).2 ≤ n := by
  induction n using Nat.twoStepInduction generalizing f a b with
  | zero =>
    obtain rfl : b = 0 := Nat.lt_one_iff.1 h
    simp
  | one =>
    have hlt : b < 2 := h
    obtain rfl | rfl : b = 0 ∨ b = 1 := by omega
    · simp
    · simpa [Nat.mod_one] using euclidCounted_rounds_le_succ f a 1
  | more n ih ih' =>
    have hfib : Nat.fib (n + 4) = Nat.fib (n + 2) + Nat.fib (n + 3) := Nat.fib_add_two
    have hlt : b < Nat.fib (n + 4) := h
    obtain rfl | hb := Nat.eq_zero_or_pos b
    · simp
    have hfirst := euclidCounted_rounds_le_succ f a b
    by_cases hr : a % b < Nat.fib (n + 3)
    · have hrest := ih' (f - 1) b hr
      omega
    · have hsecond := euclidCounted_rounds_le_succ (f - 1) b (a % b)
      have hle : a % b ≤ b := (Nat.mod_lt a hb).le
      have hdrop : b % (a % b) ≤ b - a % b := by
        rw [Nat.mod_eq_sub_mod hle]
        exact Nat.mod_le _ _
      have hrest := ih (f - 1 - 1) (a % b) (b := b % (a % b)) (by omega)
      omega

/-- Fuel for the rounds that are counted is as good as any fuel that is enough, in the recursion of R132. -/
theorem egcdRec_eq_of_rounds_le {f g a b : Nat} (hg : b ≤ g) (h : (euclidCounted g a b).2 ≤ f) :
    egcdRec f a b = egcdRec g a b := by
  induction f generalizing g a b with
  | zero =>
    cases g with
    | zero => rfl
    | succ g =>
      obtain rfl : b = 0 := by_contra fun hb => by simp [euclidCounted_rounds_succ g a hb] at h
      rfl
  | succ f ih =>
    obtain rfl | hb := eq_or_ne b 0
    · cases g <;> rfl
    · obtain ⟨g, rfl⟩ := Nat.exists_eq_succ_of_ne_zero (show g ≠ 0 by omega)
      rw [Nat.succ_eq_add_one, euclidCounted_rounds_succ g a hb] at h
      have hr := Nat.mod_lt a (Nat.pos_of_ne_zero hb)
      simp only [egcdRec, hb, if_false]
      rw [ih (g := g) (by omega) (by omega)]

/-- The recursion of R132 goes through the pairs of the loop of R130, so g is what the loop returns. -/
theorem egcdRec_fst (f a b : Nat) : (egcdRec f a b).1 = euclid f a b := by
  induction f generalizing a b with
  | zero => rfl
  | succ f ih =>
    obtain rfl | hb := eq_or_ne b 0
    · rfl
    · simp [egcdRec, euclid, hb, ih]

/-- Settles O59: 2^63 is below Fibonacci number 93, and fuel for the counted rounds is enough. -/
theorem euclidTakesFewerThan92Steps : Obligations.EuclidTakesFewerThan92Steps := by
  intro a b _ hb
  have hfib : 2 ^ 63 < Nat.fib (91 + 2) := by norm_num
  have hrounds : (euclidCounted b a b).2 ≤ 91 := euclidCounted_rounds_le_of_lt_fib b a (hb.trans hfib)
  have hrec : egcdRec 91 a b = egcd a b := egcdRec_eq_of_rounds_le le_rfl hrounds
  have hloop : euclid 91 a b = gcdOf a b := by
    rw [← egcdRec_fst, hrec]
    exact egcdRec_fst b a b
  exact ⟨Nat.lt_succ_of_le hrounds, hloop, hrec⟩

/-! ## The greatest common divisor and EGCD's coefficients (R130 to R135) -/

@[simp] theorem egcd_zero (a : Nat) : egcd a 0 = (a, 1, 0) := rfl

/-- The recursion of R132, without fuel. -/
theorem egcd_of_pos (a : Nat) {b : Nat} (hb : 0 < b) :
    egcd a b = ((egcd b (a % b)).1, (egcd b (a % b)).2.2,
      (egcd b (a % b)).2.1 - ((a / b : Nat) : Int) * (egcd b (a % b)).2.2) := by
  obtain ⟨n, rfl⟩ := Nat.exists_eq_succ_of_ne_zero hb.ne'
  have hfuel : egcdRec n n.succ (a % n.succ) = egcd n.succ (a % n.succ) :=
    egcdRec_fuel _ (Nat.lt_succ_iff.1 (Nat.mod_lt a hb))
  rw [← hfuel, egcd, egcdRec, if_neg hb.ne']

theorem egcd_fst (a b : Nat) : (egcd a b).1 = Nat.gcd a b := by
  induction b, a using Nat.gcd.induction with
  | H0 a => simp
  | H1 b a hb ih => rw [egcd_of_pos a hb, ih, Nat.gcd_comm a, Nat.gcd_rec b a, Nat.gcd_comm]

theorem gcdOf_eq_gcd (a b : Nat) : gcdOf a b = Nat.gcd a b := by
  rw [← egcd_fst, egcd, egcdRec_fst, gcdOf]

/-- Division with remainder, both sides divided by a common divisor. -/
theorem div_eq_mod_div_add {g b : Nat} (a : Nat) (hb : g ∣ b) : a / g = a % b / g + a / b * (b / g) := by
  have hdvd : g ∣ a / b * b := hb.mul_left _
  rw [← Nat.mul_div_assoc _ hb, ← Nat.add_div_of_dvd_left hdvd, mul_comm, Nat.mod_add_div]

/-- R135: with g the greatest common divisor, |x| is at most b div g and |y| at most a div g, where these are not 0. -/
theorem egcd_coefficients_le (a b : Nat) :
    (egcd a b).2.1.natAbs ≤ max 1 (b / Nat.gcd a b) ∧ (egcd a b).2.2.natAbs ≤ max 1 (a / Nat.gcd a b) := by
  induction b, a using Nat.gcd.induction with
  | H0 a => simp
  | H1 b a hb ih =>
    obtain ⟨hx, hy⟩ := ih
    have hgcd : Nat.gcd b (a % b) = Nat.gcd a b := by rw [Nat.gcd_comm, ← Nat.gcd_rec, Nat.gcd_comm]
    rw [hgcd] at hx hy
    rw [egcd_of_pos a hb]
    refine ⟨hy, ?_⟩
    obtain hr | hr := Nat.eq_zero_or_pos (a % b)
    · simp [hr]
    · have hg : 0 < Nat.gcd a b := Nat.gcd_pos_of_pos_right a hb
      have hgr : Nat.gcd a b ∣ a % b := hgcd ▸ Nat.gcd_dvd_right b (a % b)
      rw [max_eq_right (Nat.div_pos (Nat.le_of_dvd hr hgr) hg)] at hx
      rw [max_eq_right (Nat.div_pos (Nat.gcd_le_right a hb) hg)] at hy
      refine le_max_of_le_right ?_
      calc ((egcd b (a % b)).2.1 - ((a / b : Nat) : Int) * (egcd b (a % b)).2.2).natAbs
        _ ≤ (egcd b (a % b)).2.1.natAbs + a / b * (egcd b (a % b)).2.2.natAbs :=
          (Int.natAbs_sub_le _ _).trans_eq (by rw [Int.natAbs_mul, Int.natAbs_natCast])
        _ ≤ a % b / Nat.gcd a b + a / b * (b / Nat.gcd a b) := Nat.add_le_add hx (Nat.mul_le_mul_left _ hy)
        _ = a / Nat.gcd a b := (div_eq_mod_div_add a (Nat.gcd_dvd_right a b)).symm

/-- R135: the coefficients of operands below 2^63 fit the symmetric range. -/
theorem egcd_coefficients_range {a b : Nat} (ha : a < 2 ^ 63) (hb : b < 2 ^ 63) :
    (egcd a b).2.1.natAbs < 2 ^ 63 ∧ (egcd a b).2.2.natAbs < 2 ^ 63 := by
  obtain ⟨hx, hy⟩ := egcd_coefficients_le a b
  have hqa := Nat.div_le_self a (Nat.gcd a b)
  have hqb := Nat.div_le_self b (Nat.gcd a b)
  constructor <;> omega

theorem gcd_lt_of_lt {a b n : Nat} (ha : a < n) (hb : b < n) : Nat.gcd a b < n := by
  obtain rfl | h := Nat.eq_zero_or_pos b
  · simpa
  · exact (Nat.gcd_le_right a h).trans_lt hb

/-! ## Modular results stay below the modulus (R111) -/

theorem mulmod_lt (a b : Nat) {m : Nat} (hm : 0 < m) : mulmod a b m < m := Nat.mod_lt _ hm

theorem powLoop_lt (f : Nat) {m : Nat} (e base : Nat) {result : Nat} (h : result < m) :
    powLoop f m e base result < m := by
  induction f generalizing e base result with
  | zero => exact h
  | succ f ih =>
    unfold powLoop
    split
    · exact h
    · refine ih _ _ ?_
      split
      · exact mulmod_lt _ _ (Nat.zero_lt_of_lt h)
      · exact h

theorem modpowOf_lt (b e : Nat) {m : Nat} (hm : 0 < m) : modpowOf b e m < m := powLoop_lt _ _ _ (Nat.mod_lt _ hm)

/-! ## The range of the results (R111) -/

theorem toNat_sint_lt (v : Word) : (sint v).toNat < 2 ^ 63 := by
  have hmax := (sint_range v).2
  omega

/-- If the result is a success, it writes its primary result to rd and nothing else, and that is in [0, 2^63-1]. -/
def WritesPrimary (rd : Reg) (r : CmdResult) : Prop :=
  ∀ ws z, r = .ok ws z → ws = [(rd, enc z)] ∧ 0 ≤ z ∧ z < 2 ^ 63

theorem WritesPrimary.err (rd : Reg) (c : ErrCode) : WritesPrimary rd (.err c) := nofun

theorem WritesPrimary.ok (rd : Reg) {z : Int} (h0 : 0 ≤ z) (h1 : z < 2 ^ 63) :
    WritesPrimary rd (.ok [(rd, enc z)] z) := by
  rintro ws z' h
  cases h
  exact ⟨rfl, h0, h1⟩

theorem WritesPrimary.ok_nat (rd : Reg) {n : Nat} (h : n < 2 ^ 63) : WritesPrimary rd (.ok [(rd, enc n)] n) :=
  .ok rd (Int.natCast_nonneg n) (by exact_mod_cast h)

theorem WritesPrimary.ok_emod (rd : Reg) (z : Int) {m : Word} (hm : 0 < sint m) :
    WritesPrimary rd (.ok [(rd, enc (z % sint m))] (z % sint m)) := by
  have hlt := Int.emod_lt_of_pos z hm
  have hmax := (sint_range m).2
  exact .ok rd (Int.emod_nonneg z hm.ne') (by omega)

theorem isprimeResult_writesPrimary (rd : Reg) (a : Word) : WritesPrimary rd (isprimeResult rd a) := by
  rw [isprimeResult_eq]
  exact .ok rd (by split <;> decide) (by split <;> decide)

theorem gcdResult_writesPrimary (rd : Reg) (a b : Word) : WritesPrimary rd (gcdResult rd a b) := by
  by_cases hdom : sint a < 0 ∨ sint b < 0
  · rw [gcdResult_domain rd hdom]
    exact .err rd _
  · rw [gcdResult_ok rd (by omega) (by omega), gcdOf_eq_gcd]
    exact .ok_nat rd (gcd_lt_of_lt (toNat_sint_lt a) (toNat_sint_lt b))

theorem modinvResult_writesPrimary (rd : Reg) (a m : Word) : WritesPrimary rd (modinvResult rd a m) := by
  by_cases hdom : sint a < 0 ∨ sint m ≤ 0
  · rw [modinvResult_domain rd hdom]
    exact .err rd _
  have ha : 0 ≤ sint a := by omega
  have hm : 0 < sint m := by omega
  by_cases hg : (egcd (sint a).toNat (sint m).toNat).1 = 1
  · rw [modinvResult_ok rd ha hm hg]
    exact .ok_emod rd _ hm
  · rw [modinvResult_notFound rd ha hm hg]
    exact .err rd _

theorem modpowResult_writesPrimary (rd : Reg) (b e m : Word) : WritesPrimary rd (modpowResult rd b e m) := by
  by_cases hdom : sint b < 0 ∨ sint e < 0 ∨ sint m ≤ 0
  · rw [modpowResult_domain rd hdom]
    exact .err rd _
  · rw [modpowResult_ok rd (by omega) (by omega) (by omega)]
    exact .ok_nat rd ((modpowOf_lt _ _ (by omega)).trans (toNat_sint_lt m))

theorem modpowsResult_writesPrimary (rd : Reg) (b e m : Word) : WritesPrimary rd (modpowsResult rd b e m) := by
  by_cases hdom : sint b < 0 ∨ sint e < 0 ∨ sint m ≤ 0
  · rw [modpowsResult_domain rd hdom]
    exact .err rd _
  by_cases hlarge : sint m ≤ sint b
  · rw [modpowsResult_overflow rd (by omega) (by omega) (by omega) hlarge]
    exact .err rd _
  · rw [modpowsResult_below rd (by omega) (by omega) (by omega)]
    exact modpowResult_writesPrimary rd b e m

theorem modmulResult_writesPrimary (rd : Reg) (a b m : Word) : WritesPrimary rd (modmulResult rd a b m) := by
  by_cases hdom : sint a < 0 ∨ sint b < 0 ∨ sint m ≤ 0
  · rw [modmulResult_domain rd hdom]
    exact .err rd _
  · rw [modmulResult_ok rd (by omega) (by omega) (by omega)]
    exact .ok_nat rd ((mulmod_lt _ _ (by omega)).trans (toNat_sint_lt m))

theorem modredResult_writesPrimary (rd : Reg) (a m : Word) : WritesPrimary rd (modredResult rd a m) := by
  by_cases hdom : sint a < 0 ∨ sint m ≤ 0
  · rw [modredResult_domain rd hdom]
    exact .err rd _
  · rw [modredResult_ok rd (by omega) (by omega)]
    exact .ok_emod rd _ (by omega)

/-- Every command but EGCD has one destination, and its result is in range. -/
theorem resultOf_writesPrimary {i : Instr} {ops : List Word} {r : CmdResult} (hi : i.opcode ≠ .egcd)
    (hr : resultOf i ops = some r) : ∃ rd, dests i = [rd] ∧ WritesPrimary rd r := by
  unfold resultOf at hr
  split at hr <;> cases hr
  · exact ⟨_, rfl, isprimeResult_writesPrimary _ _⟩
  · exact ⟨_, rfl, gcdResult_writesPrimary _ _ _⟩
  · exact (hi rfl).elim
  · exact ⟨_, rfl, modinvResult_writesPrimary _ _ _⟩
  · exact ⟨_, rfl, modpowResult_writesPrimary _ _ _ _⟩
  · exact ⟨_, rfl, modpowsResult_writesPrimary _ _ _ _⟩
  · exact ⟨_, rfl, modmulResult_writesPrimary _ _ _ _⟩
  · exact ⟨_, rfl, modredResult_writesPrimary _ _ _⟩

/-- EGCD's successes: the greatest common divisor in [0, 2^63-1], two coefficients in the symmetric range. -/
theorem resultOf_egcd_range {rd rd2 rd3 rs1 rs2 : Reg} {ops : List Word} {ws : List (Reg × Word)} {z : Int}
    (h : resultOf (.egcd rd rd2 rd3 rs1 rs2) ops = some (.ok ws z)) :
    ∃ x y : Int, ws = [(rd, enc z), (rd2, enc x), (rd3, enc y)] ∧ 0 ≤ z ∧ z < 2 ^ 63 ∧
      x.natAbs < 2 ^ 63 ∧ y.natAbs < 2 ^ 63 := by
  have hlen : ops.length = 2 := by
    simpa [h, sources] using (resultOf_isSome (.egcd rd rd2 rd3 rs1 rs2) ops).symm
  obtain ⟨a, b, rfl⟩ := List.length_eq_two.1 hlen
  replace h : egcdResult rd rd2 rd3 a b = .ok ws z := Option.some.inj h
  by_cases hdom : sint a < 0 ∨ sint b < 0
  · rw [egcdResult_domain rd rd2 rd3 hdom] at h
    cases h
  · rw [egcdResult_ok rd rd2 rd3 (by omega) (by omega)] at h
    cases h
    have hg : (egcd (sint a).toNat (sint b).toNat).1 < 2 ^ 63 := by
      rw [egcd_fst]
      exact gcd_lt_of_lt (toNat_sint_lt a) (toNat_sint_lt b)
    obtain ⟨hx, hy⟩ := egcd_coefficients_range (toNat_sint_lt a) (toNat_sint_lt b)
    exact ⟨_, _, rfl, Int.natCast_nonneg _, by exact_mod_cast hg, hx, hy⟩

theorem dests_nodup {i : Instr} (hwf : i.wf = true) : (dests i).Nodup := by
  cases i with
  | egcd rd rd2 rd3 rs1 rs2 => exact (Laws.DestsDistinct.egcd rd rd2 rd3 rs1 rs2 hwf).1
  | _ => exact List.nodup_singleton _

/-- A command that ends without error has a successful result, whose values its destinations hold. -/
theorem exec_ok_inv {i : Instr} {s t : State} (hwf : i.wf = true) (hexec : exec i s = .next t)
    (hok : t.status.err = false) :
    ∃ ops ws z, resultOf i ops = some (.ok ws z) ∧ ∀ k v, (k, v) ∈ ws → t.reg k = v := by
  obtain ⟨ops, r, -, hr, rfl⟩ := exec_inv hexec
  cases r with
  | err c => simp at hok
  | ok ws z => exact ⟨ops, ws, z, hr, s.writeAll_value ws (resultOf_dests hr ▸ dests_nodup hwf)⟩

/-- Where a command without coefficients ends without error, its destination reads as an integer at least 0. -/
theorem sint_dest_nonneg {i : Instr} {s t : State} (hi : i.opcode ≠ .egcd) (hwf : i.wf = true)
    (hexec : exec i s = .next t) (hok : t.status.err = false) {k : Reg} (hk : k ∈ dests i) : 0 ≤ sint (t.reg k) := by
  obtain ⟨ops, ws, z, hr, hvalues⟩ := exec_ok_inv hwf hexec hok
  obtain ⟨rd, hdests, hprimary⟩ := resultOf_writesPrimary hi hr
  obtain ⟨rfl, h0, h1⟩ := hprimary ws z rfl
  obtain rfl : k = rd := by simpa [hdests] using hk
  rwa [hvalues k _ (List.mem_singleton_self _), sint_enc (by omega) (by omega)]

/-- Where EGCD ends without error, rd reads as an integer at least 0, and rd2 and rd3 as ones in the symmetric range. -/
theorem sint_egcd_dests {rd rd2 rd3 rs1 rs2 : Reg} {s t : State} (hwf : (Instr.egcd rd rd2 rd3 rs1 rs2).wf = true)
    (hexec : exec (.egcd rd rd2 rd3 rs1 rs2) s = .next t) (hok : t.status.err = false) :
    0 ≤ sint (t.reg rd) ∧ -(2 ^ 63 - 1) ≤ sint (t.reg rd2) ∧ -(2 ^ 63 - 1) ≤ sint (t.reg rd3) := by
  obtain ⟨ops, ws, z, hr, hvalues⟩ := exec_ok_inv hwf hexec hok
  obtain ⟨x, y, rfl, h0, h1, hx, hy⟩ := resultOf_egcd_range hr
  rw [hvalues rd (enc z) (by simp), hvalues rd2 (enc x) (by simp), hvalues rd3 (enc y) (by simp),
    sint_enc (by omega) (by omega), sint_enc (by omega) (by omega), sint_enc (by omega) (by omega)]
  exact ⟨h0, by omega, by omega⟩

/-- Settles O46: the destinations read as the results that were written, and EGCD alone writes coefficients. -/
theorem resultsAreNonNegative : Obligations.ResultsAreNonNegative := by
  intro i s t hwf hexec hok k hk
  have hlower : 0 ≤ sint (t.reg k) → -(2 ^ 63 - 1) ≤ sint (t.reg k) := by omega
  by_cases hi : i.opcode = .egcd
  · cases i with
    | egcd rd rd2 rd3 rs1 rs2 =>
      obtain ⟨hg, hx, hy⟩ := sint_egcd_dests hwf hexec hok
      refine ⟨?_, fun hrd => hrd _ _ _ _ _ rfl ▸ hg⟩
      simp only [dests, List.mem_cons, List.not_mem_nil, or_false] at hk
      rcases hk with rfl | rfl | rfl
      exacts [hlower hg, hx, hy]
    | _ => cases hi
  · have hnonneg := sint_dest_nonneg hi hwf hexec hok hk
    exact ⟨hlower hnonneg, fun _ => hnonneg⟩

end Sys2Proof.Machine

/-! # ISPRIME decides primality -/

namespace Sys2Proof.Machine

/-! ## Trial division finds the least factor (R120, R121) -/

/-- With fuel enough to pass n, the loop of R120 succeeds exactly when Mathlib's search for the least factor, which tries the
same divisors, finds nothing below n. -/
theorem trialDivide_eq_true_iff {fuel n i : Nat} (hi : 2 ≤ i) (hfuel : n < i + 2 * fuel) :
    trialDivide fuel n i = true ↔ Nat.minFacAux n i = n := by
  induction fuel generalizing i with
  | zero =>
    have hpast : n < i * i := by nlinarith
    rw [Nat.minFacAux, if_pos hpast]
    simp [trialDivide]
  | succ fuel ih =>
    rw [Nat.minFacAux, trialDivide]
    by_cases hsquare : i * i ≤ n
    · rw [if_pos hsquare, if_neg hsquare.not_gt]
      by_cases hdvd : i ∣ n
      · have hlt : i < n := by nlinarith
        simp [hdvd, Nat.mod_eq_zero_of_dvd, hlt.ne]
      · simp only [← Nat.dvd_iff_mod_eq_zero, hdvd, if_false]
        exact ih (by omega) (by omega)
    · rw [if_neg hsquare, if_pos (not_le.1 hsquare)]
      simp

/-- The tester of R120 decides primality: for an odd n its loop runs the search for the least factor of n from 3. -/
theorem primeByTrial_eq_true_iff (n : Nat) : primeByTrial n = true ↔ n.Prime := by
  rw [primeByTrial, Nat.prime_def_minFac, Nat.minFac_eq]
  by_cases hsmall : n < 2
  · simp [hsmall]
  by_cases htwo : n = 2
  · simp [htwo]
  by_cases heven : 2 ∣ n
  · simp [htwo, heven, Nat.mod_eq_zero_of_dvd, Ne.symm htwo]
  · have hodd : n % 2 ≠ 0 := by omega
    simp only [hsmall, htwo, hodd, heven, if_false, not_lt.1 hsmall, true_and]
    exact trialDivide_eq_true_iff (by omega) (by omega)

/-! ## ISPRIME -/

/-- ISPRIME's test accepts a signed operand exactly when it is a prime number (R121): a negative one is below 2. -/
theorem isprime_test_iff (n : Int) :
    (2 ≤ n ∧ primeByTrial n.toNat = true) ↔ (0 ≤ n ∧ n.toNat.Prime) := by
  rw [primeByTrial_eq_true_iff]
  constructor
  · rintro ⟨htwo, hprime⟩
    exact ⟨by omega, hprime⟩
  · rintro ⟨-, hprime⟩
    have := hprime.two_le
    exact ⟨by omega, hprime⟩

/-- Settles O26: ISPRIME succeeds on every operand, and its value is 1 exactly where trial division finds a prime. -/
theorem isprimeDecidesPrimality : Obligations.IsprimeDecidesPrimality := by
  intro rd rs1 s a hops
  obtain ⟨t, hexec, hsucc⟩ :=
    exec_succeeds (i := .isprime rd rs1) hops (congrArg some (isprimeResult_eq rd a)) (List.nodup_singleton rd)
  exact ⟨t, _, hexec, hsucc, fun hprime => if_pos ((isprime_test_iff _).2 hprime),
    fun hnot => if_neg (mt (isprime_test_iff _).1 hnot)⟩

end Sys2Proof.Machine

/-! # The extended-GCD solver: GCD, EGCD and MODINV (42_gcd_inverse.md) -/

namespace Sys2Proof.Machine

/-! ## The recursion and its identity (R132, R134, R135) -/

/-- Settles O29: the recursion of R132 holds without its fuel. -/
theorem egcdFollowsTheStandardRecursion : Obligations.EgcdFollowsTheStandardRecursion :=
  ⟨egcd_zero, fun a b hb g x1 y1 h => by rw [egcd_of_pos a hb, h]⟩

/-- R134: a combination of b and a mod b is one of a and b, as a mod b = a - b * (a div b). -/
theorem egcd_bezout (a b : Nat) : (a : Int) * (egcd a b).2.1 + b * (egcd a b).2.2 = (egcd a b).1 := by
  induction b, a using Nat.gcd.induction with
  | H0 a => simp
  | H1 b a hb ih =>
    rw [Int.natCast_mod, Int.emod_def] at ih
    rw [egcd_of_pos a hb, ← ih, Int.natCast_div]
    ring

/-- Settles O30: the identity goes through the recursion, and g is what Euclid's loop returns. -/
theorem egcdSatisfiesBezoutIdentity : Obligations.EgcdSatisfiesBezoutIdentity :=
  fun a b => ⟨egcd_bezout a b, egcd_fst a b⟩

/-- Settles O31: the bounds of the coefficients, and the range that follows from them. -/
theorem egcdCoefficientsAreBounded : Obligations.EgcdCoefficientsAreBounded := by
  refine ⟨fun a b ha hb _ => ?_, egcd_zero 0⟩
  obtain ⟨hx, hy⟩ := egcd_coefficients_le a b
  obtain ⟨hxmax, hymax⟩ := egcd_coefficients_range (a := a) (b := b) (by omega) (by omega)
  exact ⟨hx, hy, by omega, by omega⟩

/-! ## GCD (R130) -/

theorem resultOf_gcd (rd rs1 rs2 : Reg) {a b : Word} (ha : 0 ≤ sint a) (hb : 0 ≤ sint b) :
    resultOf (.gcd rd rs1 rs2) [a, b] =
      some (.ok [(rd, enc (Nat.gcd (sint a).toNat (sint b).toNat))] (Nat.gcd (sint a).toNat (sint b).toNat)) := by
  rw [← gcdOf_eq_gcd]
  exact congrArg some (gcdResult_ok rd ha hb)

/-- Settles O27: the loop of R130 gives the greatest common divisor. -/
theorem gcdWritesTheGreatestCommonDivisor : Obligations.GcdWritesTheGreatestCommonDivisor :=
  fun rd rs1 rs2 _ _ _ hops ha hb => exec_succeeds hops (resultOf_gcd rd rs1 rs2 ha hb) (List.nodup_singleton rd)

/-! ## EGCD (R133) -/

/-- Integers that fit the symmetric range of R135 have patterns that read back as themselves (R9). -/
theorem sint_enc_of_natAbs_lt {z : Int} (h : z.natAbs < 2 ^ 63) : sint (enc z) = z :=
  sint_enc (by omega) (by omega)

section
variable {a b : Word} {g : Nat} {x y : Int}

/-- The triple of two operands of 64 bits fits the symmetric range (R135). -/
theorem egcd_sint_range (h : egcd (sint a).toNat (sint b).toNat = (g, x, y)) :
    g < 2 ^ 63 ∧ x.natAbs < 2 ^ 63 ∧ y.natAbs < 2 ^ 63 := by
  have hfst := egcd_fst (sint a).toNat (sint b).toNat
  have hrange := egcd_coefficients_range (toNat_sint_lt a) (toNat_sint_lt b)
  rw [h] at hfst hrange
  exact ⟨hfst.trans_lt (gcd_lt_of_lt (toNat_sint_lt a) (toNat_sint_lt b)), hrange⟩

/-- R134 for the signed readings of two operands. -/
theorem sint_bezout (ha : 0 ≤ sint a) (hb : 0 ≤ sint b) (h : egcd (sint a).toNat (sint b).toNat = (g, x, y)) :
    sint a * x + sint b * y = g := by
  simpa [h, ha, hb] using egcd_bezout (sint a).toNat (sint b).toNat

theorem resultOf_egcd (rd rd2 rd3 rs1 rs2 : Reg) (ha : 0 ≤ sint a) (hb : 0 ≤ sint b)
    (h : egcd (sint a).toNat (sint b).toNat = (g, x, y)) :
    resultOf (.egcd rd rd2 rd3 rs1 rs2) [a, b] = some (.ok [(rd, enc g), (rd2, enc x), (rd3, enc y)] g) := by
  have hok := egcdResult_ok rd rd2 rd3 ha hb
  rw [h] at hok
  exact congrArg some hok

/-- EGCD on its domain completes successfully, and its destinations read back as the triple of R132. -/
theorem exec_egcd {rd rd2 rd3 rs1 rs2 : Reg} {s : State} (hwf : (Instr.egcd rd rd2 rd3 rs1 rs2).wf = true)
    (hops : s.pendingOps = some [a, b]) (ha : 0 ≤ sint a) (hb : 0 ≤ sint b)
    (h : egcd (sint a).toNat (sint b).toNat = (g, x, y)) :
    ∃ t, exec (.egcd rd rd2 rd3 rs1 rs2) s = .next t ∧ Succeeded s t [(rd, enc g), (rd2, enc x), (rd3, enc y)] g ∧
      sint (t.reg rd) = g ∧ sint (t.reg rd2) = x ∧ sint (t.reg rd3) = y := by
  obtain ⟨t, hexec, hsucc⟩ := exec_succeeds hops (resultOf_egcd rd rd2 rd3 rs1 rs2 ha hb h) (dests_nodup hwf)
  have hreads (k : Reg) (z : Int) (hz : z.natAbs < 2 ^ 63)
      (hmem : (k, enc z) ∈ [(rd, enc g), (rd2, enc x), (rd3, enc y)]) : sint (t.reg k) = z := by
    rw [(hsucc.values k _ hmem).1, sint_enc_of_natAbs_lt hz]
  obtain ⟨hg, hx, hy⟩ := egcd_sint_range h
  exact ⟨t, hexec, hsucc, hreads rd g hg (by simp), hreads rd2 x hx (by simp), hreads rd3 y hy (by simp)⟩

end

/-- Settles O28: the patterns read back as the triple, which satisfies R134. -/
theorem egcdWritesBezoutCoefficients : Obligations.EgcdWritesBezoutCoefficients := by
  intro rd rd2 rd3 rs1 rs2 s a b hwf hops ha hb
  obtain ⟨⟨g, x, y⟩, htriple⟩ : ∃ p, egcd (sint a).toNat (sint b).toNat = p := ⟨_, rfl⟩
  obtain ⟨t, hexec, hsucc, hg, hx, hy⟩ := exec_egcd hwf hops ha hb htriple
  have hgcd : g = Nat.gcd (sint a).toNat (sint b).toNat := by rw [← egcd_fst, htriple]
  exact ⟨t, g, x, y, hexec, hsucc, htriple.symm, congrArg Nat.cast hgcd, hg, by
    rw [hx, hy, sint_bezout ha hb htriple]⟩

/-! ## MODINV (R137, R138) -/

/-- A Bezout coefficient of a, reduced mod m, inverts a mod m. -/
theorem mul_emod_bezout {a m x y : Int} (h : a * x + m * y = 1) : a * (x % m) % m = 1 % m := by
  rw [Int.mul_emod, Int.emod_emod, ← Int.mul_emod, ← h, Int.add_mul_emod_self_left]

/-- An inverse of a mod m is congruent to a Bezout coefficient of a: r = r*(a*x + m*y), where a*r is 1 mod m. -/
theorem emod_eq_of_mul_emod_eq_one {a m x y r : Int} (h : a * x + m * y = 1) (hr : a * r % m = 1 % m) :
    r % m = x % m :=
  calc r % m
    _ = (a * r * x + m * (y * r)) % m := congrArg (· % m) (by linear_combination -r * h)
    _ = a * r * x % m := Int.add_mul_emod_self_left ..
    _ = 1 * x % m := Int.ModEq.mul_right x hr
    _ = x % m := by rw [one_mul]

theorem resultOf_modinv (rd rs1 rs2 : Reg) {a m : Word} (ha : 0 ≤ sint a) (hm : 0 < sint m) {x y : Int}
    (h : egcd (sint a).toNat (sint m).toNat = (1, x, y)) :
    resultOf (.modinv rd rs1 rs2) [a, m] = some (.ok [(rd, enc (x % sint m))] (x % sint m)) := by
  have hok := modinvResult_ok rd ha hm (by rw [h])
  rw [h] at hok
  exact congrArg some hok

/-- Settles O32: with gcd 1 EGCD's x inverts a mod m (R134), and every inverse is congruent to it. -/
theorem modinvWritesTheUniqueInverse : Obligations.ModinvWritesTheUniqueInverse := by
  intro rd rs1 rs2 s a m hops ha hm hgcd
  obtain ⟨x, y, htriple⟩ : ∃ x y, egcd (sint a).toNat (sint m).toNat = (1, x, y) :=
    ⟨_, _, Prod.ext ((egcd_fst _ _).trans hgcd) rfl⟩
  have hbezout : sint a * x + sint m * y = 1 := sint_bezout ha hm.le htriple
  have hinv := mul_emod_bezout hbezout
  obtain ⟨t, hexec, hsucc⟩ := exec_succeeds hops (resultOf_modinv rd rs1 rs2 ha hm htriple) (List.nodup_singleton rd)
  refine ⟨t, x % sint m, hexec, hsucc, Int.emod_nonneg x hm.ne', Int.emod_lt_of_pos x hm, hinv, fun r' h0 hlt hr' => ?_,
    fun hone => ?_, fun hone => ?_, fun rd1 rd2 rd3 q1 q2 u v hwf hu hexec' => ?_⟩
  · rw [← emod_eq_of_mul_emod_eq_one hbezout hr', Int.emod_eq_of_lt h0 hlt]
  · rw [hinv, Int.emod_eq_of_lt zero_le_one hone]
  · rw [hone, Int.emod_one]
  · obtain ⟨v', hv', -, -, hx, -⟩ := exec_egcd hwf hu ha hm.le htriple
    obtain rfl := Host.Outcome.next.inj (hv'.symm.trans hexec')
    rw [hx]

end Sys2Proof.Machine

/-! # The modular exponentiation engine: MODPOW and MODPOWS (43_modexp.md) -/

namespace Sys2Proof.Machine

/-! ## Square-and-multiply gives the power (R150, R151) -/

theorem mulmod_modEq (a b m : Nat) : mulmod a b m ≡ a * b [MOD m] := Nat.mod_modEq _ m

/-- R151: the loop keeps `result * base^e` modulo m, as base^e is the square to the power e div 2, times base for an odd e. -/
theorem powLoop_modEq {f e : Nat} (hfuel : e ≤ f) (m base result : Nat) :
    powLoop f m e base result ≡ result * base ^ e [MOD m] := by
  induction f generalizing e base result with
  | zero =>
    obtain rfl := Nat.le_zero.1 hfuel
    simp [powLoop, Nat.ModEq.refl]
  | succ f ih =>
    obtain rfl | he := eq_or_ne e 0
    · simp [powLoop, Nat.ModEq.refl]
    have hsquare : mulmod base base m ^ (e / 2) ≡ base ^ (2 * (e / 2)) [MOD m] := by
      rw [pow_mul, pow_two]
      exact (mulmod_modEq base base m).pow _
    have hrest := ih (e := e / 2) (by omega) (mulmod base base m)
    rw [powLoop, if_neg he]
    split
    · next hodd =>
      calc powLoop f m (e / 2) (mulmod base base m) (mulmod result base m)
        _ ≡ mulmod result base m * mulmod base base m ^ (e / 2) [MOD m] := hrest _
        _ ≡ result * base * base ^ (2 * (e / 2)) [MOD m] := (mulmod_modEq result base m).mul hsquare
        _ = result * base ^ e := by rw [mul_assoc, ← pow_succ', show 2 * (e / 2) + 1 = e by omega]
    · next heven =>
      calc powLoop f m (e / 2) (mulmod base base m) result
        _ ≡ result * mulmod base base m ^ (e / 2) [MOD m] := hrest _
        _ ≡ result * base ^ (2 * (e / 2)) [MOD m] := hsquare.mul_left result
        _ = result * base ^ e := by rw [show 2 * (e / 2) = e by omega]

/-- R151: the value of MODPOW is the power mod m, the base reduced or not. -/
theorem modpowOf_eq (b e : Nat) {m : Nat} (hm : 0 < m) : modpowOf b e m = b ^ e % m :=
  calc modpowOf b e m
    _ = modpowOf b e m % m := (Nat.mod_eq_of_lt (modpowOf_lt b e hm)).symm
    _ = 1 % m * (b % m) ^ e % m := powLoop_modEq le_rfl m (b % m) (1 % m)
    _ = 1 * b ^ e % m := (Nat.mod_modEq 1 m).mul ((Nat.mod_modEq b m).pow e)
    _ = b ^ e % m := by rw [one_mul]

/-- The value of MODPOW on the integers of its domain. -/
theorem modpowOf_toNat {b m : Int} (e : Nat) (hb : 0 ≤ b) (hm : 0 < m) :
    (modpowOf b.toNat e m.toNat : Int) = b ^ e % m := by
  rw [modpowOf_eq b.toNat e (by omega)]
  simp [hb, hm.le]

/-! ## MODPOW and MODPOWS complete (R150, R154) -/

theorem resultOf_modpow (rd rs1 rs2 rs3 : Reg) {b e m : Word} (hb : 0 ≤ sint b) (he : 0 ≤ sint e) (hm : 0 < sint m) :
    resultOf (.modpow rd rs1 rs2 rs3) [b, e, m] =
      some (.ok [(rd, enc (sint b ^ (sint e).toNat % sint m))] (sint b ^ (sint e).toNat % sint m)) := by
  rw [← modpowOf_toNat _ hb hm]
  exact congrArg some (modpowResult_ok rd hb he hm)

/-- Settles O34: the loop gives the power mod m, a remainder by a positive modulus. -/
theorem modpowWritesThePowerModM : Obligations.ModpowWritesThePowerModM := by
  intro rd rs1 rs2 rs3 s b e m hops hb he hm
  obtain ⟨t, hexec, hsucc⟩ := exec_succeeds hops (resultOf_modpow rd rs1 rs2 rs3 hb he hm) (List.nodup_singleton rd)
  exact ⟨t, _, hexec, hsucc, rfl, Int.emod_nonneg _ hm.ne', Int.emod_lt_of_pos _ hm⟩

/-- R154: below the modulus MODPOWS is MODPOW. -/
theorem exec_modpows_of_lt {s : State} {b e m : Word} (rd rs1 rs2 rs3 : Reg) (hops : s.pendingOps = some [b, e, m])
    (hb : 0 ≤ sint b) (he : 0 ≤ sint e) (hlt : sint b < sint m) :
    exec (.modpows rd rs1 rs2 rs3) s = exec (.modpow rd rs1 rs2 rs3) s := by
  have hresult : resultOf (.modpows rd rs1 rs2 rs3) [b, e, m] = some (modpowResult rd b e m) :=
    congrArg some (modpowsResult_below rd hb he hlt)
  rw [exec_of_result hops hresult, exec_of_result (i := .modpow rd rs1 rs2 rs3) hops rfl]

/-- Settles O35: below the modulus the command is MODPOW, whose domain it is in. -/
theorem modpowsWritesThePowerBelowModulus : Obligations.ModpowsWritesThePowerBelowModulus := by
  intro rd rs1 rs2 rs3 s b e m hops hb he hlt
  obtain ⟨t, r, hexec, hsucc, hr, -⟩ :=
    modpowWritesThePowerModM rd rs1 rs2 rs3 s b e m hops hb he (hb.trans_lt hlt)
  exact ⟨t, r, (exec_modpows_of_lt rd rs1 rs2 rs3 hops hb he hlt).trans hexec, hsucc, hr, hexec⟩

/-! ## The work of square-and-multiply (R152) -/

/-- The loop takes one round for each binary digit of e, with one `mulmod` for the round and one for a digit 1. -/
theorem powLoopCounted_counts {f e : Nat} (hfuel : e ≤ f) (m base result : Nat) :
    (powLoopCounted f m e base result).rounds = (Nat.digits 2 e).length ∧
      (powLoopCounted f m e base result).mulmods = (Nat.digits 2 e).length + (Nat.digits 2 e).sum := by
  induction f generalizing e base result with
  | zero =>
    obtain rfl := Nat.le_zero.1 hfuel
    simp [powLoopCounted]
  | succ f ih =>
    obtain rfl | he := Nat.eq_zero_or_pos e
    · simp [powLoopCounted]
    obtain ⟨hrounds, hmulmods⟩ :=
      ih (e := e / 2) (by omega) (mulmod base base m) (if e % 2 = 1 then mulmod result base m else result)
    rw [Nat.digits_def' one_lt_two he, List.length_cons, List.sum_cons, powLoopCounted, if_neg he.ne']
    refine ⟨congrArg (· + 1) hrounds, ?_⟩
    simp only [hmulmods]
    split <;> omega

/-- Settles O58: an e > 0 has floor(log2 e) + 1 binary digits, at most 63 of them below 2^63, and 0 has none. -/
theorem modpowRoundsAreBitLength : Obligations.ModpowRoundsAreBitLength := by
  intro b e m hmax
  obtain ⟨hrounds, hmulmods⟩ := powLoopCounted_counts (e := e) le_rfl m (b % m) (1 % m)
  rw [modpowCounted, hrounds, hmulmods]
  refine ⟨fun he => ?_, fun he => by simp [he]⟩
  have hlen : (Nat.digits 2 e).length = Nat.log2 e + 1 := by
    rw [Nat.length_digits 2 e one_lt_two he.ne', Nat.log2_eq_log_two]
  have hle : (Nat.digits 2 e).length ≤ 63 := (Nat.digits_length_le_iff one_lt_two e).2 (by omega)
  exact ⟨hlen, hle, by rw [hlen]⟩

/-! ## The round trip of the RSA key (R155) -/

/-- Fermat's little theorem for the product of two primes: an exponent that is 1 modulo (p-1)(q-1) leaves a residue. -/
theorem pow_modEq_self_of_primes {p q k : Nat} (hp : p.Prime) (hq : q.Prime) (hpq : p ≠ q) (hk : 0 < k)
    (hdvd : (p - 1) * (q - 1) ∣ k - 1) (z : Int) : z ^ k ≡ z [ZMOD (p * q : Nat)] := by
  have hmodp : z ^ k ≡ z ^ 1 [ZMOD p] := Int.ModEq.pow_eq_pow hp ((Nat.dvd_mul_right _ _).trans hdvd) hk one_pos z
  have hmodq : z ^ k ≡ z ^ 1 [ZMOD q] := Int.ModEq.pow_eq_pow hq ((Nat.dvd_mul_left _ _).trans hdvd) hk one_pos z
  have hcoprime : (p : Int).natAbs.Coprime (q : Int).natAbs := (Nat.coprime_primes hp hq).2 hpq
  rw [pow_one] at hmodp hmodq
  exact_mod_cast (Int.modEq_and_modEq_iff_modEq_mul hcoprime).1 ⟨hmodp, hmodq⟩

/-- For two different primes (p-1)(q-1) is more than 1, as one of them is at least 3. -/
theorem one_lt_phi {p q : Nat} (hp : p.Prime) (hq : q.Prime) (hpq : p ≠ q) : 1 < (p - 1) * (q - 1) := by
  have hp2 := hp.two_le
  have hq2 := hq.two_le
  obtain hp3 | hq3 : 3 ≤ p ∨ 3 ≤ q := by omega
  · exact one_lt_mul_of_lt_of_le (by omega) (by omega)
  · exact one_lt_mul_of_le_of_lt (by omega) (by omega)

/-- R155: an inverse d of e modulo (p-1)(q-1) undoes raising to e, modulo p*q. -/
theorem pow_pow_emod_cancel {p q e sym : Nat} {d : Int} (hp : p.Prime) (hq : q.Prime) (hpq : p ≠ q) (hsym : sym < p * q)
    (hd : 0 ≤ d) (hinv : (e : Int) * d % ((p - 1) * (q - 1) : Nat) = 1 % ((p - 1) * (q - 1) : Nat)) :
    ((sym : Int) ^ e % (p * q : Nat)) ^ d.toNat % (p * q : Nat) = sym := by
  obtain ⟨d, rfl⟩ := Int.eq_ofNat_of_zero_le hd
  have hphi := one_lt_phi hp hq hpq
  have hmod : e * d ≡ 1 [MOD (p - 1) * (q - 1)] := by exact_mod_cast hinv
  have hpos : 0 < e * d := Nat.pos_of_ne_zero fun h => by simp [h, Nat.ModEq, Nat.mod_eq_of_lt hphi] at hmod
  have hdvd : (p - 1) * (q - 1) ∣ e * d - 1 := (Nat.modEq_iff_dvd' hpos).1 hmod.symm
  calc ((sym : Int) ^ e % (p * q : Nat)) ^ d % (p * q : Nat)
    _ = sym ^ (e * d) % (p * q : Nat) := by rw [pow_mul]; exact (Int.mod_modEq _ _).pow d
    _ = sym % (p * q : Nat) := pow_modEq_self_of_primes hp hq hpq hpos hdvd sym
    _ = sym := Int.emod_eq_of_lt (Int.natCast_nonneg sym) (by exact_mod_cast hsym)

/-- A natural number up to 2^63-1 has a pattern that reads back as itself (R9). -/
theorem sint_enc_nat {n : Nat} (h : n ≤ 2 ^ 63 - 1) : sint (enc n) = n :=
  sint_enc_of_natAbs_lt (by omega)

/-- A residue modulo an operand, left in a register by a successful completion, reads back as itself (R9). -/
theorem Succeeded.sint_reg {s t : State} {k : Reg} {z : Int} {m : Word} (h : Succeeded s t [(k, enc z)] z) (h0 : 0 ≤ z)
    (hlt : z < sint m) : sint (t.reg k) = z := by
  obtain ⟨hreg, -⟩ := h.values k _ (List.mem_singleton_self _)
  have hmax := (sint_range m).2
  rw [hreg, sint_enc (by omega) (by omega)]

/-- Settles O44: MODINV's d inverts e modulo (p-1)(q-1), so the two powers of MODPOWS and MODPOW cancel modulo p*q. -/
theorem encryptThenDecryptIsIdentity : Obligations.EncryptThenDecryptIsIdentity := by
  intro p q e sym rd1 rd2 rd3 r1 r2 r3 s1 s2 hp hq hpq hn he hgcd hsym hops1 hops2
  have hphi := one_lt_phi hp hq hpq
  have hphi_le : (p - 1) * (q - 1) ≤ p * q := Nat.mul_le_mul (Nat.sub_le p 1) (Nat.sub_le q 1)
  have hreadE : sint (enc e) = e := sint_enc_nat he
  have hreadPhi : sint (enc ((p - 1) * (q - 1) : Nat)) = ((p - 1) * (q - 1) : Nat) := sint_enc_nat (hphi_le.trans hn)
  have hreadSym : sint (enc sym) = sym := sint_enc_nat (hsym.le.trans hn)
  have hreadN : sint (enc (p * q : Nat)) = (p * q : Nat) := sint_enc_nat hn
  have hmodulus : 0 < sint (enc (p * q : Nat)) := by omega
  obtain ⟨t1, d, hexec1, hsucc1, hd0, hdlt, hinv, -⟩ :=
    modinvWritesTheUniqueInverse rd1 r1 r2 s1 _ _ hops1 (by omega) (by omega) (by rwa [hreadE, hreadPhi])
  have hread1 : sint (t1.reg rd1) = d := hsucc1.sint_reg hd0 hdlt
  obtain ⟨t2, c, hexec2, hsucc2, hc, -⟩ :=
    modpowsWritesThePowerBelowModulus rd2 r1 r2 r3 s2 _ _ _ hops2 (by omega) (by omega) (by omega)
  have hc0 : 0 ≤ c := hc ▸ Int.emod_nonneg _ hmodulus.ne'
  have hclt : c < sint (enc (p * q : Nat)) := hc ▸ Int.emod_lt_of_pos _ hmodulus
  have hread2 : sint (t2.reg rd2) = c := hsucc2.sint_reg hc0 hclt
  refine ⟨t1, t2, hexec1, hsucc1.err, hexec2, hsucc2.err, by omega, by omega, fun s3 hops3 => ?_⟩
  obtain ⟨t3, r, hexec3, hsucc3, hr, hr0, hrlt⟩ :=
    modpowWritesThePowerModM rd3 r1 r2 r3 s3 _ _ _ hops3 (by omega) (by omega) hmodulus
  rw [hreadE, hreadPhi] at hinv
  rw [hreadSym, hreadE, hreadN, Int.toNat_natCast] at hc
  rw [hread2, hread1, hreadN, hc, pow_pow_emod_cancel hp hq hpq hsym hd0 hinv] at hr
  exact ⟨t3, hexec3, hsucc3.err, (hsucc3.sint_reg hr0 hrlt).trans hr⟩

end Sys2Proof.Machine

/-! # The modular multiplier and reducer: MODMUL and MODRED (44_modmul.md) -/

namespace Sys2Proof.Machine

/-! ## MODRED (R168) -/

/-- On its domain MODRED gives a mod m (R168). -/
theorem resultOf_modred (rd rs1 rs2 : Reg) {a m : Word} (ha : 0 ≤ sint a) (hm : 0 < sint m) :
    resultOf (.modred rd rs1 rs2) [a, m] = some (.ok [(rd, enc (sint a % sint m))] (sint a % sint m)) :=
  congrArg some (modredResult_ok rd ha hm)

/-- Settles O39: the remainder by an operand is representable, so rd reads back as it. -/
theorem modredWritesTheRemainder : Obligations.ModredWritesTheRemainder := by
  intro rd rs1 rs2 s a m hops ha hm
  obtain ⟨t, hexec, hsucc⟩ := exec_succeeds hops (resultOf_modred rd rs1 rs2 ha hm) (List.nodup_singleton rd)
  exact ⟨t, hexec, hsucc, hsucc.sint_reg (Int.emod_nonneg _ hm.ne') (Int.emod_lt_of_pos _ hm)⟩

/-! ## The pattern in rd after a completion -/

/-- A command whose result is one register write leaves that value in the register. -/
theorem reg_of_exec {i : Instr} {s t : State} {ops : List Word} {rd : Reg} {v : Word} {z : Int}
    (hops : s.pendingOps = some ops) (hr : resultOf i ops = some (.ok [(rd, v)] z)) (hexec : exec i s = .next t) :
    t.reg rd = v := by
  obtain ⟨t', hexec', hsucc⟩ := exec_succeeds hops hr (List.nodup_singleton rd)
  obtain rfl : t = t' := Host.Outcome.next.inj (hexec.symm.trans hexec')
  exact (hsucc.values rd v (List.mem_singleton_self _)).1

section
variable {rd rs1 rs2 rs3 : Reg} {s t : State} {a b m : Word}

theorem reg_of_exec_modmul (hops : s.pendingOps = some [a, b, m]) (ha : 0 ≤ sint a) (hb : 0 ≤ sint b) (hm : 0 < sint m)
    (hexec : exec (.modmul rd rs1 rs2 rs3) s = .next t) : t.reg rd = enc (sint a * sint b % sint m) :=
  reg_of_exec hops (resultOf_modmul rd rs1 rs2 rs3 ha hb hm) hexec

theorem reg_of_exec_modred (hops : s.pendingOps = some [a, m]) (ha : 0 ≤ sint a) (hm : 0 < sint m)
    (hexec : exec (.modred rd rs1 rs2) s = .next t) : t.reg rd = enc (sint a % sint m) :=
  reg_of_exec hops (resultOf_modred rd rs1 rs2 ha hm) hexec

/-- R166: MODMUL of the patterns of two residues writes the residue of the product of the integers they stand for. -/
theorem reg_of_exec_modmul_residues {x y : Int} (hops : s.pendingOps = some [enc (x % sint m), enc (y % sint m), m])
    (hm : 0 < sint m) (hexec : exec (.modmul rd rs1 rs2 rs3) s = .next t) : t.reg rd = enc (x * y % sint m) := by
  have hreads (z : Int) : sint (enc (z % sint m)) = z % sint m := sint_enc_emod z hm
  have hnonneg (z : Int) : 0 ≤ sint (enc (z % sint m)) := (Int.emod_nonneg z hm.ne').trans_eq (hreads z).symm
  rw [reg_of_exec_modmul hops (hnonneg x) (hnonneg y) hm hexec, hreads, hreads, ← Int.mul_emod]

end

/-! ## The laws of MODMUL (R166) -/

/-- Settles O38: each law is one of the remainder of a product, read off the patterns that the commands write. -/
theorem modmulLawsOfR166 : Obligations.ModmulLawsOfR166 := by
  intro rd rs1 rs2 rs3 s t a b m hops ha hb hm hexec
  rw [reg_of_exec_modmul hops ha hb hm hexec, sint_enc_emod _ hm]
  refine ⟨⟨rfl, Int.emod_nonneg _ hm.ne', Int.emod_lt_of_pos _ hm⟩, fun u v hu huv => ?_,
    fun u u' v v' w w' hu huu hv hvv hw hww => ?_, fun u v hb1 hu huv => ?_⟩
  · rw [reg_of_exec_modmul hu hb ha hm huv, mul_comm]
  · rw [reg_of_exec_modred hu ha hm huu, reg_of_exec_modred hv hb hm hvv] at hw
    exact reg_of_exec_modmul_residues hw hm hww
  · rw [reg_of_exec_modred hu ha hm huv, hb1, mul_one]

/-! ## MODRED beside MODMUL and MODPOW (R169) -/

/-- Where MODPOW ends without error, its base and modulus are in the domain of MODRED (R203). -/
theorem modpow_domain_of_ok {rd rs1 rs2 rs3 : Reg} {s t : State} {b e m : Word} (hops : s.pendingOps = some [b, e, m])
    (hexec : exec (.modpow rd rs1 rs2 rs3) s = .next t) (hok : t.status.err = false) : 0 ≤ sint b ∧ 0 < sint m := by
  by_contra hout
  have hdomain : modpowResult rd b e m = .err .domain := modpowResult_domain rd (by omega)
  have hfail := exec_of_result (i := .modpow rd rs1 rs2 rs3) hops (congrArg some hdomain)
  obtain rfl := Host.Outcome.next.inj (hexec.symm.trans hfail)
  cases hok

/-- Settles O43: a * 1 = a, and the domain of MODRED is that of MODPOW without the exponent. -/
theorem modredIsModmulByOne : Obligations.ModredIsModmulByOne := by
  intro rd rs1 rs2 rs3 s u v a e m hs hu hv
  refine ⟨fun ha hm => ?_, fun v' hexec hok => ?_⟩
  · have hone : sint (enc 1) = 1 := sint_enc (by decide) (by decide)
    obtain ⟨t, ht, -⟩ := modredWritesTheRemainder rd rs1 rs2 s a m hs ha hm
    obtain ⟨t', ht', -⟩ := modmulWritesTheExactProductModM rd rs1 rs2 rs3 u a _ m hu ha (by omega) hm
    refine ⟨t, t', ht, ht', ?_⟩
    rw [reg_of_exec_modred hs ha hm ht, reg_of_exec_modmul hu ha (by omega) hm ht', hone, mul_one]
  · obtain ⟨ha, hm⟩ := modpow_domain_of_ok hv hexec hok
    obtain ⟨t, ht, hsucc, -⟩ := modredWritesTheRemainder rd rs1 rs2 s a m hs ha hm
    exact ⟨t, ht, hsucc.err⟩

end Sys2Proof.Machine

/-! # Exceptions (60_exceptions.md) -/

namespace Sys2Proof.Machine

/-! ## ILLEGAL words (R202) -/

theorem toNat_opField (w : Word) : (opField w).toNat = w.toNat % 256 := by
  simp [opField, BitVec.extractLsb'_toNat]

/-- The legal opcodes are the numbers 1 to 8 (R89). -/
theorem exists_code_iff {v : BitVec 8} : (∃ o : Opcode, v = o.code) ↔ ¬(v.toNat = 0 ∨ 8 < v.toNat) := by
  constructor
  · rintro ⟨o, rfl⟩
    cases o <;> decide
  · intro h
    have hcode : opcodeOf v ≠ none := by
      revert v
      decide
    obtain ⟨o, ho⟩ := Option.ne_none_iff_exists'.1 hcode
    exact ⟨o, opcodeOf_eq_some.1 ho⟩

theorem rsvField_eq_zero_iff {w : Word} : rsvField w = 0#36 ↔ ∀ n, 28 ≤ n → w.getLsbD n = false := by
  constructor
  · intro h n hn
    by_cases hlt : n < 64
    · have hbit : (rsvField w).getLsbD (n - 28) = false := by simp [h]
      simpa [rsvField, Nat.add_sub_cancel' hn, show n - 28 < 36 by omega] using hbit
    · exact BitVec.getLsbD_of_ge w n (not_lt.1 hlt)
  · intro h
    refine BitVec.eq_of_getLsbD_eq fun k _ => ?_
    simp [rsvField, h]

theorem bit3_eq_true_iff {v : BitVec 4} : v.getLsbD 3 = true ↔ 8 ≤ v.toNat := by
  revert v
  decide

/-- A register field is at fault when it is not used and nonzero, or used and names no register. -/
theorem fieldFault_ne_none_iff {fmt : Format} {w : Word} {f : Field} :
    fieldFault fmt w f ≠ none ↔
      (fmt.uses f = false ∧ regField w f ≠ 0) ∨ (fmt.uses f = true ∧ 8 ≤ (regField w f).toNat) := by
  cases huse : fmt.uses f with
  | true => simp [fieldFault_eq_none_used huse, ← bit3_eq_true_iff]
  | false => simp [fieldFault_eq_none_unused huse]

/-- A word is ILLEGAL exactly when there is no opcode whose checks it passes. -/
theorem exists_error_iff {w : Word} :
    (∃ e, decode w = .error e) ↔ ∀ o, FieldsPass w o → o.format = .e5 ∧ distinctDests w = false := by
  have hok : (∃ e, decode w = .error e) ↔ ¬∃ o i, decode w = .ok i ∧ i.opcode = o := by
    cases decode w <;> simp
  rw [hok]
  simp only [exists_decode_iff, not_exists, not_and, Classical.not_imp, Bool.not_eq_true]

section
variable {w : Word} {o : Opcode}

/-- A word with a legal opcode is ILLEGAL unless it passes that opcode's checks. -/
theorem exists_error_iff_of_opcode (ho : opField w = o.code) :
    (∃ e, decode w = .error e) ↔ (FieldsPass w o → o.format = .e5 ∧ distinctDests w = false) := by
  rw [exists_error_iff]
  refine ⟨fun h => h o, fun h o' hpass => ?_⟩
  obtain rfl : o' = o := Opcode.code_injective (hpass.op.symm.trans ho)
  exact h hpass

/-- The faults of R202 that a word with a legal opcode can have are failures of that opcode's checks. -/
theorem hasListedFault_iff_of_opcode (ho : opField w = o.code) :
    HasListedFault w ↔ (FieldsPass w o → o.format = .e5 ∧ distinctDests w = false) := by
  have hlegal : ¬(w.toNat % 256 = 0 ∨ 8 < w.toNat % 256) := toNat_opField w ▸ exists_code_iff.1 ⟨o, ho⟩
  have hopcode (o' : Opcode) : Opcode.code o' = opField w ↔ o' = o := by rw [ho, Opcode.code_injective.eq_iff]
  have hegcd : w.toNat % 256 = 3 ↔ o.format = .e5 := by
    rw [← toNat_opField, ho]
    cases o <;> decide
  have hdests : distinctDests w = false ↔
      regField w .f1 = regField w .f4 ∨ regField w .f1 = regField w .f5 ∨ regField w .f4 = regField w .f5 := by
    rw [← Bool.not_eq_true, distinctDests_iff]
    simp only [ne_eq, not_and_or, not_not]
  have hfields : ¬FieldsPass w o ↔
      (∃ n, 28 ≤ n ∧ w.getLsbD n = true) ∨ (∃ f, fieldFault o.format w f ≠ none) := by
    have hpass : FieldsPass w o ↔ rsvField w = 0#36 ∧ ∀ f, fieldFault o.format w f = none :=
      ⟨fun h => ⟨h.rsv, h.reg⟩, fun ⟨hrsv, hreg⟩ => ⟨ho, hrsv, hreg⟩⟩
    simp [hpass, rsvField_eq_zero_iff, imp_iff_not_or]
  rw [imp_iff_not_or, hfields]
  simp only [HasListedFault, hlegal, false_or, hopcode, hegcd, hdests, fieldFault_ne_none_iff, exists_or,
    exists_and_left, exists_eq_left, or_assoc]

end

/-- R202: a word is ILLEGAL by its opcode, or by a fault that a legal opcode leaves. -/
theorem exists_error_iff_hasListedFault (w : Word) : (∃ e, decode w = .error e) ↔ HasListedFault w := by
  by_cases hop : ∃ o, opField w = Opcode.code o
  · obtain ⟨o, ho⟩ := hop
    rw [exists_error_iff_of_opcode ho, hasListedFault_iff_of_opcode ho]
  · have hfault : w.toNat % 256 = 0 ∨ 8 < w.toNat % 256 := by
      rw [← toNat_opField]
      exact not_not.1 (mt exists_code_iff.2 hop)
    exact iff_of_true (exists_error_iff.2 fun o hpass => (hop ⟨o, hpass.op⟩).elim) (.inl hfault)

/-! ## Error completions (R106) -/

/-- `fail` is the error completion of R106. -/
theorem State.fail_endedInError (s : State) (c : ErrCode) : EndedInError s (s.fail c) c where
  registers _ := ⟨rfl, rfl⟩
  busy := rfl
  done := rfl
  err := rfl
  errCode := rfl
  zero := rfl
  one := rfl
  pending := rfl
  kept := s.complete_kept (.err c)

/-- A command whose result on the captured operands is an error completes with that error. -/
theorem exec_ends_in_error {i : Instr} {s : State} {ops : List Word} {c : ErrCode} (h : s.pendingOps = some ops)
    (hr : resultOf i ops = some (.err c)) : ∃ t, exec i s = .next t ∧ EndedInError s t c :=
  ⟨_, exec_of_result h hr, s.fail_endedInError c⟩

/-! ## The outcomes of a command in the order of R208 -/

/-- The results R208 allows a command on its operands: the first condition that holds gives the error code. -/
inductive ResultByPriority (i : Instr) (ops : List Word) : CmdResult → Prop
  /-- DOMAIN (R203) -/
  | domain : OutsideDomain i ops → ResultByPriority i ops (.err .domain)
  /-- SYMBOL_OVERFLOW (R205) -/
  | symbolOverflow : ¬OutsideDomain i ops → SymbolTooLarge i ops → ResultByPriority i ops (.err .symbolOverflow)
  /-- INVERSE_NOT_FOUND (R204) -/
  | inverseNotFound : ¬OutsideDomain i ops → HasNoInverse i ops → ResultByPriority i ops (.err .inverseNotFound)
  /-- success (R105) -/
  | success {ws : List (Reg × Word)} {z : Int} : ¬OutsideDomain i ops → ¬SymbolTooLarge i ops → ¬HasNoInverse i ops →
      ResultByPriority i ops (.ok ws z)

/-- SYMBOL_OVERFLOW is MODPOWS's alone and INVERSE_NOT_FOUND is MODINV's alone (R208). -/
theorem not_symbolTooLarge_and_hasNoInverse (i : Instr) (ops : List Word) :
    ¬(SymbolTooLarge i ops ∧ HasNoInverse i ops) := by
  cases i with
  | modpows => exact fun ⟨_, h⟩ => h
  | _ => exact fun ⟨h, _⟩ => h

section
variable {i : Instr} {ops : List Word} {r : CmdResult}

/-- A command that has no other error code succeeds on its domain. -/
theorem ResultByPriority.of_domainOnly (hlarge : ¬SymbolTooLarge i ops) (hinv : ¬HasNoInverse i ops)
    (hout : OutsideDomain i ops → r = .err .domain) (hin : ¬OutsideDomain i ops → ∃ ws z, r = .ok ws z) :
    ResultByPriority i ops r := by
  by_cases hdom : OutsideDomain i ops
  · exact hout hdom ▸ .domain hdom
  · obtain ⟨ws, z, rfl⟩ := hin hdom
    exact .success hdom hlarge hinv

theorem modinvResult_byPriority (rd rs1 rs2 : Reg) (a m : Word) :
    ResultByPriority (.modinv rd rs1 rs2) [a, m] (modinvResult rd a m) := by
  by_cases hdom : sint a < 0 ∨ sint m ≤ 0
  · rw [modinvResult_domain rd hdom]
    exact .domain hdom
  have ha : 0 ≤ sint a := by omega
  have hm : 0 < sint m := by omega
  have hgcd := egcd_fst (sint a).toNat (sint m).toNat
  by_cases hg : Nat.gcd (sint a).toNat (sint m).toNat = 1
  · rw [modinvResult_ok rd ha hm (hgcd.trans hg)]
    exact .success hdom id (not_not.2 hg)
  · rw [modinvResult_notFound rd ha hm (hgcd ▸ hg)]
    exact .inverseNotFound hdom hg

theorem modpowsResult_byPriority (rd rs1 rs2 rs3 : Reg) (b e m : Word) :
    ResultByPriority (.modpows rd rs1 rs2 rs3) [b, e, m] (modpowsResult rd b e m) := by
  by_cases hdom : sint b < 0 ∨ sint e < 0 ∨ sint m ≤ 0
  · rw [modpowsResult_domain rd hdom]
    exact .domain hdom
  by_cases hlarge : sint m ≤ sint b
  · rw [modpowsResult_overflow rd (by omega) (by omega) (by omega) hlarge]
    exact .symbolOverflow hdom hlarge
  · rw [modpowsResult_below rd (by omega) (by omega) (by omega),
      modpowResult_ok rd (by omega) (by omega) (by omega)]
    exact .success hdom hlarge id

/-- Every command's result is the one R208's order gives. -/
theorem resultOf_byPriority (hr : resultOf i ops = some r) : ResultByPriority i ops r := by
  unfold resultOf at hr
  split at hr <;> cases hr
  · rw [isprimeResult_eq]
    exact .success id id id
  · refine .of_domainOnly id id (gcdResult_domain _) fun h => ?_
    obtain ⟨ha, hb⟩ := not_or.1 h
    exact ⟨_, _, gcdResult_ok _ (not_lt.1 ha) (not_lt.1 hb)⟩
  · refine .of_domainOnly id id (egcdResult_domain _ _ _) fun h => ?_
    obtain ⟨ha, hb⟩ := not_or.1 h
    exact ⟨_, _, egcdResult_ok _ _ _ (not_lt.1 ha) (not_lt.1 hb)⟩
  · exact modinvResult_byPriority _ _ _ _ _
  · refine .of_domainOnly id id (modpowResult_domain _) fun h => ?_
    obtain ⟨hb, h⟩ := not_or.1 h
    obtain ⟨he, hm⟩ := not_or.1 h
    exact ⟨_, _, modpowResult_ok _ (not_lt.1 hb) (not_lt.1 he) (not_le.1 hm)⟩
  · exact modpowsResult_byPriority _ _ _ _ _ _ _
  · refine .of_domainOnly id id (modmulResult_domain _) fun h => ?_
    obtain ⟨ha, h⟩ := not_or.1 h
    obtain ⟨hb, hm⟩ := not_or.1 h
    exact ⟨_, _, modmulResult_ok _ (not_lt.1 ha) (not_lt.1 hb) (not_le.1 hm)⟩
  · refine .of_domainOnly id id (modredResult_domain _) fun h => ?_
    obtain ⟨ha, hm⟩ := not_or.1 h
    exact ⟨_, _, modredResult_ok _ (not_lt.1 ha) (not_le.1 hm)⟩

end

/-- Settles O40: of the outcomes of R208 the first alone is DOMAIN, and it is that of R203's table. -/
theorem domainErrorsAreTheTableOfR203 : Obligations.DomainErrorsAreTheTableOfR203 := by
  intro i s ops hops hlen
  have hsome : (resultOf i ops).isSome := by simp [resultOf_isSome, hlen]
  obtain ⟨r, hr⟩ := Option.isSome_iff_exists.1 hsome
  refine ⟨_, exec_of_result hops hr, ?_⟩
  cases resultOf_byPriority hr with
  | domain hdom => exact ⟨fun _ => s.fail_endedInError .domain, fun h => (h hdom).elim⟩
  | symbolOverflow hdom | inverseNotFound hdom | success hdom => exact ⟨fun h => (hdom h).elim, fun _ => by simp⟩

/-- Settles O33: MODINV's g is the greatest common divisor. -/
theorem modinvSignalsInverseNotFound : Obligations.ModinvSignalsInverseNotFound := by
  intro rd rs1 rs2 s a m hops ha hm
  by_cases hgcd : Nat.gcd (sint a).toNat (sint m).toNat = 1
  · obtain ⟨t, r, hexec, hsucc, -⟩ := modinvWritesTheUniqueInverse rd rs1 rs2 s a m hops ha hm hgcd
    exact ⟨t, hexec, fun h => (h hgcd).elim, fun _ => hsucc.errCode⟩
  · have hresult := modinvResult_notFound rd ha hm (by rwa [egcd_fst])
    obtain ⟨t, hexec, herr⟩ := exec_ends_in_error (i := .modinv rd rs1 rs2) hops (congrArg some hresult)
    exact ⟨t, hexec, fun _ => herr, fun h => (hgcd h).elim⟩

/-- Settles O36: MODPOWS checks the base, where the power MODPOW gives depends on the base's residue alone. -/
theorem modpowsSignalsSymbolOverflow : Obligations.ModpowsSignalsSymbolOverflow := by
  intro rd rs1 rs2 rs3 s b e m hops hb he hm hlarge
  have hresult := modpowsResult_overflow rd hb he hm hlarge
  obtain ⟨t, r, hexec, hsucc, hr, h0, hlt⟩ := modpowWritesThePowerModM rd rs1 rs2 rs3 s b e m hops hb he hm
  have hresidue : (sint b % sint m) ^ (sint e).toNat % sint m = r := hr ▸ (Int.mod_modEq _ _).pow _
  exact ⟨exec_ends_in_error (i := .modpows rd rs1 rs2 rs3) hops (congrArg some hresult), t, hexec, hsucc.err,
    (hsucc.sint_reg h0 hlt).trans hresidue.symm⟩

/-! ## The completion of a pending word -/

/-- A pending command completes with its result. -/
theorem WordResult.of_decode_ok {w : Word} {ops : List Word} {r : CmdResult} {i : Instr} (h : WordResult w ops r)
    (hi : decode w = .ok i) : resultOf i ops = some r := by
  obtain ⟨j, hj, hr⟩ | ⟨⟨e, he⟩, -⟩ := h
  · cases hi.symm.trans hj
    exact hr
  · cases hi.symm.trans he

/-- A pending ILLEGAL word completes with ILLEGAL_CMD (R202). -/
theorem WordResult.of_decode_error {w : Word} {ops : List Word} {r : CmdResult} {e : Illegal} (h : WordResult w ops r)
    (he : decode w = .error e) : r = .err .illegalCmd := by
  obtain ⟨i, hi, -⟩ | ⟨-, hr⟩ := h
  · cases he.symm.trans hi
  · exact hr

/-- An engine event that ends the pending command is its completion. -/
theorem StepEffect.completion {s t : State} {p : Pending} (h : StepEffect s t) (he : EngineNext s)
    (hp : s.pending = some p) (hend : t.pending = none) :
    ∃ r, WordResult p.word p.ops r ∧ t = s.takeEvent.complete r := by
  cases h with
  | complete _ hp' _ hres =>
    cases hp.symm.trans hp'
    exact ⟨_, hres, rfl⟩
  | reset hev => simp [EngineNext, hev] at he
  | _ => simp [hp] at hend

/-- Under the invariant the last engine step completes the pending word with its result. -/
theorem State.Inv.step_completes_with_result {s : State} {p : Pending} (hinv : s.Inv) (he : EngineNext s)
    (hp : s.pending = some p) (hl : s.nextEvent = .engine → p.left = 1) :
    ∃ r, WordResult p.word p.ops r ∧ step s = .next (s.takeEvent.complete r) := by
  obtain ⟨r, hstep⟩ := hinv.step_completes he hp fun h => (hl h).le
  obtain ⟨r', hres, hr'⟩ := (stepEffect_of_step hstep).completion he hp (State.complete_pending _ r)
  exact ⟨r', hres, hr' ▸ hstep⟩

/-- Settles O41: the result of the pending word, by the order of R208. -/
theorem errorCodeFollowsThePriority : Obligations.ErrorCodeFollowsThePriority := by
  intro s p hinv he hp hl
  obtain ⟨r, hres, hstep⟩ := hinv.step_completes_with_result he hp hl
  refine ⟨_, hstep, fun e hill => ?_, fun i hi => ?_⟩
  · rw [hres.of_decode_error hill]
    rfl
  · have hexcl := not_symbolTooLarge_and_hasNoInverse i p.ops
    cases resultOf_byPriority (hres.of_decode_ok hi) with
    | domain hdom => simp [hdom, hexcl]
    | symbolOverflow hdom hlarge =>
      have hinverse : ¬HasNoInverse i p.ops := fun h => hexcl ⟨hlarge, h⟩
      simp [hdom, hlarge, hinverse]
    | inverseNotFound hdom hnone =>
      have hsmall : ¬SymbolTooLarge i p.ops := fun h => hexcl ⟨h, hnone⟩
      simp [hdom, hsmall, hnone]
    | success hdom hsmall hinverse => simp [hdom, hsmall, hinverse]

/-- Settles O42: while BUSY the host writes no register, an error completion writes none, and reset sets no error. -/
theorem errorsArePrecise : Obligations.ErrorsArePrecise := by
  intro s t hinv hstep hp hend
  obtain ⟨p, hp⟩ := Option.ne_none_iff_exists'.1 hp
  have hb := hinv.busy_of_pending hp
  cases stepEffect_of_step hstep with
  | refuse | read | drop | accept | writeStatus | writeCtrl | ignore | rest | tick | release => exact ⟨rfl, rfl⟩
  | store _ hidle => simp [hb] at hidle
  | reset => simp at hend
  | @complete _ r =>
    cases r with
    | err c => exact ⟨rfl, rfl⟩
    | ok ws z => simp at hend

/-- Settles O25: the completion is in ILLEGAL_CMD and keeps LASTCMD, which is the pending word. -/
theorem illegalWordCompletesWithIllegalCmd : Obligations.IllegalWordCompletesWithIllegalCmd := by
  refine ⟨?_, exists_error_iff_hasListedFault⟩
  rintro s p hinv he hp hl ⟨e, hill⟩
  obtain ⟨r, hres, hstep⟩ := hinv.step_completes_with_result he hp hl
  obtain rfl := hres.of_decode_error hill
  obtain ⟨hword, -, -⟩ := hinv.pending_record p hp
  refine ⟨_, hstep, s.takeEvent.fail_endedInError _, ?_⟩
  rw [State.windowRead_cmd (slotOf_eq_cmd.2 rfl), hword]
  rfl

end Sys2Proof.Machine

/-! # Reset (70_reset_and_hazards.md) -/

namespace Sys2Proof.Machine

/-! ## What the reset state of R41 shows -/

/-- No register is marked written where the poison bits are those of R41. -/
theorem State.isWritten_of_reset_written {s : State} (h : s.written = Vector.replicate 8 false) (i : Reg) :
    s.isWritten i = false := by
  simp [State.isWritten, h, Vector.get_eq_getElem]

/-- With STATUS in reset DONE is 0, so `irq` is 0 (R38). -/
theorem State.irq_of_reset_status {s : State} (h : s.status = Status.reset) : s.irq = false := by
  simp [State.irq, h]

/-- Settles O9: the edge sets the state of R41 and leaves the patterns of the registers. -/
theorem resetAbandonsThePendingCommand : Obligations.ResetAbandonsThePendingCommand := by
  intro s hev
  exact ⟨_, step_of_rstRise hev, rfl, rfl, State.isWritten_of_reset_written rfl, rfl, rfl, rfl,
    State.irq_of_reset_status rfl, rfl, State.windowRead_ident (slotOf_eq_ident.2 rfl)⟩

/-! ## While `rst` is 1 (R230) -/

/-- A host transaction is refused, whatever it asks for. -/
theorem step_of_host_held {s : State} {x : HostTxn} (hx : s.nextEvent = .host x) (hrst : s.rst = true) :
    step s = .next s.takeEvent.refuseTxn := by
  simp [step_of_host hx, State.serve, hrst]

/-- `rst` falls: its level is all that changes. -/
theorem step_of_rstFall {s : State} (h : s.nextEvent = .rstFall) :
    step s = .next { s.takeEvent with rst := false } := by
  simp [step, runEvent, h]

/-- Taking an event, and nothing more, leaves the MEE as it is. -/
theorem State.takeEvent_sameMee (s : State) : SameMee s s.takeEvent :=
  ⟨rfl, rfl, rfl, rfl, rfl, rfl, rfl⟩

/-- Settles O10: transactions are refused, the engine rests, and the falling edge keeps the reset state, which the
invariant says is held. -/
theorem nothingHappensWhileResetIsHeld : Obligations.NothingHappensWhileResetIsHeld := by
  intro s hinv hrst
  obtain ⟨hwritten, hlast, hstatus, hirqEn, hpending⟩ := hinv.held hrst
  refine ⟨fun x hx => ?_, fun he => ?_, fun hfall => ?_⟩
  · exact ⟨_, step_of_host_held hx hrst, s.refuseTxn_sameMee, rfl⟩
  · exact ⟨_, step_of_engine_resting he (.inl hrst), s.takeEvent_sameMee⟩
  · exact ⟨_, step_of_rstFall hfall, rfl, rfl, State.isWritten_of_reset_written hwritten, hlast, hstatus, hirqEn,
      hpending, State.irq_of_reset_status hstatus⟩

end Sys2Proof.Machine
